-- ==== Sys2Proof/Word.lean ====
section
/-! DEFINITION. The word types of the block: bytes (symbols, Record bytes, characters) and 32-bit words (registers, command words, the host bus), as spec/00_scope.md rules R7 and R8 name them. -/

namespace Sys2Proof

/-- A byte is 8 bits (R7). -/
abbrev Byte := BitVec 8

/-- A host register, a command word, an s32 or a u32: 32 bits (R8, R70). -/
abbrev Word := BitVec 32

/-- A frame of 35 symbol bytes, `SYMBOLS_PER_FRAME` (R5). -/
abbrev Frame := Vector Byte 35

/-- A Record of 17 bytes, `RECORD_BYTES` (R5). -/
abbrev Record := Vector Byte 17

end Sys2Proof
end

