-- ==== Sys2Proof/Config.lean ====
section
/-! DEFINITION. The build parameters of spec/00_scope.md rule R5: the two open ones (SEG_CODEBOOK and DIGIT_FLAG_BIT) as an opaque constant that nothing can evaluate, and the fixed ones. -/

namespace Sys2Proof

/-- `DIGIT_FLAG_BIT`, 0 or 7 (R5, R103, D17): which bit of a digit cell is the flag. -/
inductive DigitFlagBit where
  | bit0
  | bit7
  deriving DecidableEq, Repr, Inhabited

/-- The open build parameters of one block instance (R5, R272). No register holds them. -/
structure BuildParams where
  /-- `SEG_CODEBOOK[g]`: the 7-bit segment pattern of glyph index g, in the order `0123456789ELnr-` (R108). -/
  segCodebook : Vector (BitVec 7) 15
  /-- `DIGIT_FLAG_BIT` (R103). -/
  digitFlagBit : DigitFlagBit
  deriving DecidableEq, Repr, Inhabited

/-- R5: the 15 patterns are pairwise distinct. -/
def BuildParams.distinct (p : BuildParams) : Bool :=
  decide p.segCodebook.toList.Nodup

/-- R5: no pattern is 0. -/
def BuildParams.nonzero (p : BuildParams) : Bool :=
  p.segCodebook.toList.all (· ≠ 0)

/-- R5: the codebooks a model accepts; any other is refused. -/
def BuildParams.valid (p : BuildParams) : Bool :=
  p.distinct && p.nonzero

/-- The test codebook of spec/95_test_vectors.md section 1, with the flag in bit 7.
It shows that a valid build exists; it is not the instrument's codebook (D18). -/
def BuildParams.example95 : BuildParams where
  segCodebook := #v[0x3F, 0x06, 0x5B, 0x4F, 0x66, 0x6D, 0x7D, 0x07, 0x7F, 0x6F, 0x79, 0x38, 0x54, 0x50, 0x40]
  digitFlagBit := .bit7

/-- The parameters the block was built with, before the check of R5: an open value (D17, D18), with no body. -/
opaque Config.rawBuild : BuildParams

/-- The build parameters of this block instance (R5).
R5 refuses an invalid codebook, so an invalid raw value is no block: `build` ranges over exactly the valid builds. -/
def Config.build : BuildParams :=
  if Config.rawBuild.valid then Config.rawBuild else BuildParams.example95

/-- `N_MAX` (R5, D48): the largest sample count the block accepts. -/
def Config.nMax : Nat := 2049

end Sys2Proof
end

