-- ==== Sys2Proof/Syntax.lean ====
section
/-! DEFINITION. The instruction set: one constructor for each row of spec/opcode_table.json. Eleven command words the host writes to CMD (spec/30_encoding.md rule R92), the transport symbol (R95), and the seven supply requests the block emits (R114). -/

namespace Sys2Proof

/-- What the block is told to do, word by word. Commands take every operand from registers (R116); a symbol carries its payload nibble (R95); a supply request carries its argument (R114). -/
inductive Instr where
  /-- `NOP`, CMD = 0x00 (R176). -/
  | nop
  /-- `ACQUIRE`, CMD = 0x01 (R120). -/
  | acquire
  /-- `DECODE`, CMD = 0x02 (R135). -/
  | decode
  /-- `MAP`, CMD = 0x03 (R151). -/
  | map
  /-- `SAMPLE`, CMD = 0x04 (R177). -/
  | sample
  /-- `CAL_START`, CMD = 0x10 (R190). -/
  | calStart
  /-- `CAL_STOP_KEEP`, CMD = 0x11 (R222). -/
  | calStopKeep
  /-- `CAL_STOP_ADJUST`, CMD = 0x12 (R223). -/
  | calStopAdjust
  /-- `CAL_ABORT`, CMD = 0x13 (R224). -/
  | calAbort
  /-- `CLEAR`, CMD = 0x1E (R178). -/
  | clear
  /-- `SOFT_RESET`, CMD = 0x1F (R179). -/
  | softReset
  /-- `SYMBOL`: one valid symbol received from the transport, with its payload nibble (R95). -/
  | symbol (nibble : BitVec 4)
  /-- `SUP_IDENTIFY`, supply op 1 (R114). -/
  | supIdentify (arg : Word)
  /-- `SUP_READ_OFFSET`, supply op 2 (R114). -/
  | supReadOffset (arg : Word)
  /-- `SUP_READ_GAIN`, supply op 3 (R114). -/
  | supReadGain (arg : Word)
  /-- `SUP_SET_OUTPUT`, supply op 4 (R114). -/
  | supSetOutput (arg : Word)
  /-- `SUP_WRITE_OFFSET`, supply op 5 (R114). -/
  | supWriteOffset (arg : Word)
  /-- `SUP_WRITE_GAIN`, supply op 6 (R114). -/
  | supWriteGain (arg : Word)
  /-- `SUP_READ_TEMP`, supply op 7 (R114). -/
  | supReadTemp (arg : Word)
  deriving DecidableEq, Repr

/-- A word on one of the three ports that carry encodings (spec/30_encoding.md): the host's write to CMD, a byte from the transport, a request to the supply. -/
inductive PortWord where
  /-- A 32-bit word written to `CMD` (R90). -/
  | command (v : Word)
  /-- A byte on `rx_data` (R95). -/
  | transport (b : Byte)
  /-- `sup_req_op` and `sup_req_arg` (R24, R114). -/
  | supply (op : BitVec 4) (arg : Word)
  deriving DecidableEq, Repr

end Sys2Proof
end

