-- ==== Sys2Proof/WellFormed.lean ====
section
/-! DEFINITION. What makes an instruction and a build well formed: the argument of a supply request that takes none is 0 (spec/30_encoding.md rule R114), and the codebook is valid (spec/00_scope.md rule R5). -/

namespace Sys2Proof

/-- The argument a supply request may carry: IDENTIFY, READ_OFFSET, READ_GAIN and READ_TEMP carry 0 (R114). Every other operand has exactly the width of its field. -/
def Instr.wellFormed : Instr → Bool
  | .nop => true
  | .acquire => true
  | .decode => true
  | .map => true
  | .sample => true
  | .calStart => true
  | .calStopKeep => true
  | .calStopAdjust => true
  | .calAbort => true
  | .clear => true
  | .softReset => true
  | .symbol _ => true
  | .supIdentify arg => arg = 0
  | .supReadOffset arg => arg = 0
  | .supReadGain arg => arg = 0
  | .supSetOutput _ => true
  | .supWriteOffset _ => true
  | .supWriteGain _ => true
  | .supReadTemp arg => arg = 0

/-- A well-formed instruction: one some port can carry. -/
abbrev Instr.WellFormed (i : Instr) : Prop := i.wellFormed = true

/-- A build R5 does not refuse. -/
abbrev BuildParams.WellFormed (p : BuildParams) : Prop := p.valid = true

end Sys2Proof
end

