-- ==== Sys2Proof/Decode.lean ====
section
/-! DEFINITION. The decoder, total on every word of every port and refusing by name, and the encoder, both written from spec/30_encoding.md rules R90-R97 and R114. -/

namespace Sys2Proof

/-- Why a word is no instruction. -/
inductive DecodeError where
  /-- `CMD[31:8]` is not 0 (R93). -/
  | reservedBits
  /-- `CMD[7:0]` is none of the eleven opcodes (R93). -/
  | unassignedOpcode
  /-- A transport byte whose bits 7:6 are not 0b01 (R95). -/
  | badStartMarker
  /-- A transport byte whose bits 1:0 are not 0b11 (R95). -/
  | badStopMarker
  /-- Supply ops 0 and 8-15 are never emitted (R114). -/
  | supplyOpNeverEmitted
  /-- A request whose argument is 0 by R114 with another argument. -/
  | supplyArgNotZero
  deriving DecidableEq, Repr

/-- What decoding a word gives. -/
abbrev Decoded := Except DecodeError Instr

/-- The opcode map (R92). -/
def commandOfOpcode (opc : Byte) : Decoded :=
  if opc = 0x00 then .ok .nop
  else if opc = 0x01 then .ok .acquire
  else if opc = 0x02 then .ok .decode
  else if opc = 0x03 then .ok .map
  else if opc = 0x04 then .ok .sample
  else if opc = 0x10 then .ok .calStart
  else if opc = 0x11 then .ok .calStopKeep
  else if opc = 0x12 then .ok .calStopAdjust
  else if opc = 0x13 then .ok .calAbort
  else if opc = 0x1E then .ok .clear
  else if opc = 0x1F then .ok .softReset
  else .error .unassignedOpcode

/-- A command word (R90, R91): legal iff `RSV` = 0 and `OPC` is assigned. -/
def decodeCommand (v : Word) : Decoded :=
  if v.extractLsb' 8 24 ≠ 0 then .error .reservedBits
  else commandOfOpcode (v.extractLsb' 0 8)

/-- The payload nibble `s[5:2]`, bit 5 its most significant bit (R95, D14). -/
def nibbleOf (b : Byte) : BitVec 4 := b.extractLsb' 2 4

/-- `0x43 | (n << 2)`, the symbol of a nibble (R96). -/
def symbolOf (n : BitVec 4) : Byte := 0b01#2 ++ n ++ 0b11#2

/-- A symbol's framing: valid iff `(s & 0xC3) = 0x43` (R95). -/
def validSymbol (b : Byte) : Bool := b &&& 0xC3 = 0x43

/-- A transport byte (R95). -/
def decodeTransport (b : Byte) : Decoded :=
  if b.extractLsb' 6 2 ≠ 0b01 then .error .badStartMarker
  else if b.extractLsb' 0 2 ≠ 0b11 then .error .badStopMarker
  else .ok (.symbol (nibbleOf b))

/-- A request whose argument is 0 by R114. -/
def decodeNoArg (i : Instr) (arg : Word) : Decoded :=
  if arg = 0 then .ok i else .error .supplyArgNotZero

/-- A supply request (R114). -/
def decodeSupply (op : BitVec 4) (arg : Word) : Decoded :=
  if op = 1 then decodeNoArg (.supIdentify arg) arg
  else if op = 2 then decodeNoArg (.supReadOffset arg) arg
  else if op = 3 then decodeNoArg (.supReadGain arg) arg
  else if op = 4 then .ok (.supSetOutput arg)
  else if op = 5 then .ok (.supWriteOffset arg)
  else if op = 6 then .ok (.supWriteGain arg)
  else if op = 7 then decodeNoArg (.supReadTemp arg) arg
  else .error .supplyOpNeverEmitted

/-- The decoder: each port has its own encoding (spec/30_encoding.md), and nothing in the state changes how a word decodes (R94). -/
def decode : PortWord → Decoded
  | .command v => decodeCommand v
  | .transport b => decodeTransport b
  | .supply op arg => decodeSupply op arg

/-- The encoder: the word of an instruction on its port. -/
def encode : Instr → PortWord
  | .nop => .command 0x00000000
  | .acquire => .command 0x00000001
  | .decode => .command 0x00000002
  | .map => .command 0x00000003
  | .sample => .command 0x00000004
  | .calStart => .command 0x00000010
  | .calStopKeep => .command 0x00000011
  | .calStopAdjust => .command 0x00000012
  | .calAbort => .command 0x00000013
  | .clear => .command 0x0000001E
  | .softReset => .command 0x0000001F
  | .symbol n => .transport (symbolOf n)
  | .supIdentify arg => .supply 1 arg
  | .supReadOffset arg => .supply 2 arg
  | .supReadGain arg => .supply 3 arg
  | .supSetOutput arg => .supply 4 arg
  | .supWriteOffset arg => .supply 5 arg
  | .supWriteGain arg => .supply 6 arg
  | .supReadTemp arg => .supply 7 arg

/-- The port that carries a word of spec/opcode_table.json, given how many bits the table's row has (in whole bytes) and the word's bits.
A row of more than 8 bits is a command word; a row of at most 8 bits is a supply op when its high nibble is 0 (a symbol's is never 0, R95) and a transport byte otherwise.
The table gives a supply request's argument no bits, so it is 0. -/
def portOfTableWord (nbits w : Nat) : PortWord :=
  if 8 < nbits then .command (BitVec.ofNat 32 w)
  else if w < 16 then .supply (BitVec.ofNat 4 w) 0
  else .transport (BitVec.ofNat 8 w)

/-- The instruction the decoder reads from a word of the opcode table: `none` where it refuses, and where `w` has a bit its row does not have. -/
def decodeTableWord (nbits w : Nat) : Option Instr :=
  if w < 2 ^ nbits then (decode (portOfTableWord nbits w)).toOption else none

end Sys2Proof
end

