-- ==== Sys2Proof/Machine/State.lean ====
section
/-! DEFINITION. Every piece of state spec/10_state.md gives the block, as plain data, with the reset values of spec/70_reset_and_hazards.md rule R265, and the reasons a step can stop. -/

namespace Sys2Proof.Machine

/-- `OP`, the acquisition and command engine's state (R26). Codes 5-7 and 9-15 are never held. -/
inductive Op where
  | idle
  | acqPulse
  | acqRead
  | smpPulse
  | smpRead
  | cal
  deriving DecidableEq, Repr

/-- `CAL_STATE`, the calibration state machine's state (R27). Codes 12-15 are never held. -/
inductive CalState where
  | idle
  | readCal
  | setLow
  | measLow
  | setHigh
  | measHigh
  | compute
  | writeCal
  | logRound
  | converged
  | failed
  | aborted
  deriving DecidableEq, Repr

/-- `SUBSTEP`, the await point the sequencer holds at (R28): the points named in spec/44_calibration.md rule R193, and none. The two acquisition points serve ACQUIRE, SAMPLE and calibration (R121). -/
inductive Await where
  /-- No operation in progress (R265). -/
  | none
  /-- `ENTRY`: a running state entered, its body not started. -/
  | entry
  | tIdent
  | tRoff
  | tRgain
  | tSet
  | wSettle
  /-- `A_PULSE`, the acquisition's `pulse_end` (R122). -/
  | aPulse
  /-- `A_READ`, the acquisition's `read_end` (R123). -/
  | aRead
  | tWoff
  | tWgain
  | tTemp
  | lEmit
  deriving DecidableEq, Repr

/-- `STOP_REQ`, the latched operator request (R32). -/
inductive StopReq where
  | none
  | keep
  | adjust
  | abort
  deriving DecidableEq, Repr

/-- The error codes of R240; every other value of `ERR_CODE` is never written. -/
inductive ErrCode where
  | none
  | transportTimeout
  | framingError
  | noRecord
  | illegalCommand
  | configError
  | calUnstable
  | calTimeout
  | calDivergence
  | calAcqFail
  | calSupplyTimeout
  | calAborted
  deriving DecidableEq, Repr

/-- `RD_ATTR.PREFIX`, the scale prefix (R110). Codes 6 and 7 are never written. -/
inductive Scale where
  | none
  | nano
  | micro
  | milli
  | kilo
  | mega
  deriving DecidableEq, Repr

/-- `RD_ATTR.MOD`, the modifier (R113). Codes 5-7 are never written. -/
inductive Modifier where
  | none
  | min
  | max
  | peakToPeak
  | delta
  deriving DecidableEq, Repr

/-- The configuration registers (R34-R43), each at the width of its defined field. -/
structure Cfg where
  /-- `PULSE_MS` (R34). -/
  pulseMs : BitVec 16
  /-- `TIMEOUT_MS` (R34). -/
  timeoutMs : BitVec 16
  /-- `N_SAMPLES` (R35). -/
  nSamples : BitVec 12
  /-- `NOISE_THR_MANT` (R36). -/
  noiseThrMant : Word
  /-- `NOISE_THR_EXP` (R36). -/
  noiseThrExp : Byte
  /-- `SETTLE_INIT_MS` (R37). -/
  settleInitMs : BitVec 24
  /-- `SETTLE_MAX_MS` (R37). -/
  settleMaxMs : BitVec 24
  /-- `MAX_BATCH_RETRIES` (R38). -/
  maxBatchRetries : Byte
  /-- `MAX_ROUNDS` (R38). -/
  maxRounds : BitVec 16
  /-- `MAX_ACQ_FAILS` (R38). -/
  maxAcqFails : BitVec 16
  /-- `SUP_TIMEOUT_MS` (R38). -/
  supTimeoutMs : BitVec 16
  /-- `REF_LOW_MANT` (R39). -/
  refLowMant : Word
  /-- `REF_LOW_EXP` (R39). -/
  refLowExp : Byte
  /-- `REF_HIGH_MANT` (R39). -/
  refHighMant : Word
  /-- `REF_HIGH_EXP` (R39). -/
  refHighExp : Byte
  /-- `SET_LOW_ARG` (R40). -/
  setLowArg : Word
  /-- `SET_HIGH_ARG` (R40). -/
  setHighArg : Word
  /-- `CAL_CTRL.GAIN_DAMP` (R41). -/
  gainDamp : Bool
  /-- `CAL_CTRL.TOL_EN` (R41). -/
  tolEn : Bool
  /-- `CAL_CTRL.REF_CHANNEL` (R41). -/
  refChannel : Byte
  /-- `OFFSET_MIN` (R42). -/
  offsetMin : Word
  /-- `OFFSET_MAX` (R42). -/
  offsetMax : Word
  /-- `GAIN_MIN` (R42). -/
  gainMin : Word
  /-- `GAIN_MAX` (R42). -/
  gainMax : Word
  /-- `PPM_TOL` (R43). -/
  ppmTol : Word
  /-- `OFFSET_TOL` (R43). -/
  offsetTol : Word
  deriving DecidableEq, Repr

/-- The reset values of the configuration registers (R29, R34-R43). -/
def Cfg.reset : Cfg where
  pulseMs := 10
  timeoutMs := 3265
  nSamples := 17
  noiseThrMant := 0
  noiseThrExp := 0
  settleInitMs := 100
  settleMaxMs := 20000
  maxBatchRetries := 16
  maxRounds := 0
  maxAcqFails := 16
  supTimeoutMs := 1000
  refLowMant := 0
  refLowExp := 0
  refHighMant := 0
  refHighExp := 0
  setLowArg := 0
  setHighArg := 0
  gainDamp := false
  tolEn := false
  refChannel := 0
  offsetMin := 0x80000000
  offsetMax := 0x7FFFFFFF
  gainMin := 1
  gainMax := 0x7FFFFFFF
  ppmTol := 0
  offsetTol := 0

/-- The Reading registers `RD_*` (R47, R48), written only by MAP. -/
@[ext] structure Reading where
  /-- `RD_MANT`. -/
  mant : BitVec 20
  /-- `RD_EXP`. -/
  exp : Byte
  /-- `RD_ATTR.PREFIX`. -/
  scale : Scale
  /-- `RD_ATTR.UNIT`, an index into the unit table (R111). -/
  unit : BitVec 4
  /-- `RD_ATTR.ACDC`, the two bits `DC, AC` (R112). -/
  acdc : BitVec 2
  /-- `RD_ATTR.MOD`. -/
  modifier : Modifier
  /-- `RD_ATTR.NEG`. -/
  neg : Bool
  /-- `RD_ATTR.SWINV`. -/
  swinv : Bool
  /-- `RD_TEXT_LEN`. -/
  textLen : BitVec 4
  /-- `RD_TEXT[0..11]`. -/
  text : Vector Byte 12
  /-- `RD_UNMAPPED`. -/
  unmapped : BitVec 6
  deriving DecidableEq, Repr

/-- The Reading registers after reset (R47, R48). -/
def Reading.reset : Reading where
  mant := 0
  exp := 0
  scale := .none
  unit := 0
  acdc := 0
  modifier := .none
  neg := false
  swinv := false
  textLen := 0
  text := Vector.replicate 12 0
  unmapped := 0

/-- The calibration session registers (R49-R54). -/
@[ext] structure Session where
  /-- `CAL_OFFSET` (R49). -/
  offset : Word
  /-- `CAL_GAIN` (R49). -/
  gain : Word
  /-- `CAL_MLOW_MANT` (R50). -/
  mlowMant : Word
  /-- `CAL_MLOW_EXP` (R50). -/
  mlowExp : Byte
  /-- `CAL_MHIGH_MANT` (R50). -/
  mhighMant : Word
  /-- `CAL_MHIGH_EXP` (R50). -/
  mhighExp : Byte
  /-- `CAL_SETTLE_MS` (R51). -/
  settleMs : Word
  /-- `CAL_RETRY_COUNT` (R51). -/
  retryCount : Word
  /-- `CAL_ROUND` (R51). -/
  round : BitVec 16
  /-- `CAL_BOARD_ID` (R52). -/
  boardId : Word
  /-- `CAL_TEMP` (R52). -/
  temp : Word
  /-- `CAL_PPM` (R53). -/
  ppm : Word
  /-- `CAL_OFFCORR` (R53). -/
  offCorr : Word
  /-- `CAL_ACQ_FAILS` (R54). -/
  acqFails : Word
  /-- `CAL_ACQ_RUN` (R54). -/
  acqRun : BitVec 16
  /-- `CAL_NEW_OFFSET` (R53). -/
  newOffset : Word
  /-- `CAL_NEW_GAIN` (R53). -/
  newGain : Word
  deriving DecidableEq, Repr

/-- The session registers after reset (R49-R54). -/
def Session.reset : Session where
  offset := 0
  gain := 0
  mlowMant := 0
  mlowExp := 0
  mhighMant := 0
  mhighExp := 0
  settleMs := 0
  retryCount := 0
  round := 0
  boardId := 0
  temp := 0
  ppm := 0
  offCorr := 0
  acqFails := 0
  acqRun := 0
  newOffset := 0
  newGain := 0

/-- One entry of `SAMPLE_BUF` (R56): a Reading value and its arrival index. -/
structure Sample where
  neg : Bool
  mant : BitVec 20
  exp : Byte
  arrival : Nat
  deriving DecidableEq, Repr

/-- `LOG_ROW`, the six fields the log port shows (R25, R57, R115). -/
structure LogRow where
  boardId : Word
  refChannel : Byte
  temperature : Word
  offset : Word
  gain : Word
  ppm : Word
  deriving DecidableEq, Repr

/-- The log row after reset (R57). -/
def LogRow.reset : LogRow where
  boardId := 0
  refChannel := 0
  temperature := 0
  offset := 0
  gain := 0
  ppm := 0

/-- One host access: a 32-bit word at a 12-bit byte offset (R20). -/
inductive HostAccess where
  /-- `MemRead(off, 4)` (R71). -/
  | read (off : BitVec 12)
  /-- `MemWrite(off, 4, v)` (R72). -/
  | write (off : BitVec 12) (v : Word)
  deriving DecidableEq, Repr

/-- What the environment presents in one step: at most one of each input event (R10, R20-R25). -/
structure StepInput where
  /-- `rst` (R21). -/
  rst : Bool
  /-- `tick` (R22). -/
  tick : Bool
  /-- `rx_valid` and `rx_data` (R23). -/
  rx : Option Byte
  /-- `sup_rsp_valid` and `sup_rsp_data` (R24). -/
  rsp : Option Word
  /-- `log_ready` (R25). -/
  logReady : Bool
  /-- The host access (R20). -/
  host : Option HostAccess
  deriving DecidableEq, Repr

/-- A step in which the environment presents nothing. -/
def StepInput.quiet : StepInput where
  rst := false
  tick := false
  rx := none
  rsp := none
  logReady := false
  host := none

/-- The block's state: every register, output and internal register of spec/10_state.md, and the input events still to come. -/
@[ext]
structure State where
  /-- `OP` (R26). -/
  op : Op
  /-- `CAL_STATE` (R27). -/
  calState : CalState
  /-- `SUBSTEP` (R28). -/
  substep : Await
  /-- `TMR` (R33, R251). -/
  tmr : Word
  /-- `RXCNT` (R33). -/
  rxcnt : BitVec 6
  /-- `RXBUF[0..34]` (R55). -/
  rxbuf : Frame
  /-- `SAMPLE_BUF`, entries 0 to `SAMPLE_IDX` - 1 (R56): the samples of the current batch, in order of arrival. Its length is `SAMPLE_IDX` (R28). -/
  sampleBuf : List Sample
  /-- `SUP_PENDING` (R28, R57). -/
  supPending : Bool
  /-- `STATUS.DONE` (R31). -/
  done : Bool
  /-- `STATUS.REJECT` (R31). -/
  reject : Bool
  /-- `STATUS.REC_VALID` (R31). -/
  recValid : Bool
  /-- `STATUS.READ_VALID` (R31). -/
  readValid : Bool
  /-- `STATUS.ERR_CODE` (R31, R240). -/
  errCode : ErrCode
  /-- `STATUS.ERR_INDEX` (R31, R241). -/
  errIndex : BitVec 6
  /-- `STOP_REQ` (R32, R57). -/
  stopReq : StopReq
  /-- `BATCH_RETRY` (R32, R57). -/
  batchRetry : BitVec 9
  /-- The configuration registers (R34-R43). -/
  cfg : Cfg
  /-- `FRAME[0..34]` (R44). -/
  frame : Frame
  /-- `REC[0..16]` (R45). -/
  record : Record
  /-- `RD_*` (R47, R48). -/
  rd : Reading
  /-- The session registers `CAL_*` (R49-R54). -/
  ses : Session
  /-- `ROUND_WROTE` (R57). -/
  roundWrote : Bool
  /-- `ROUND_STOP` (R57). -/
  roundStop : Bool
  /-- `CORR_EXACT` (R57). -/
  corrExact : Int
  /-- `PPM_EXACT` (R57). -/
  ppmExact : Int
  /-- Output `tx_en` (R23). -/
  txEn : Bool
  /-- Output `sup_req_valid` (R24). -/
  supReqValid : Bool
  /-- Output `sup_req_op` (R24). -/
  supReqOp : BitVec 4
  /-- Output `sup_req_arg` (R24). -/
  supReqArg : Word
  /-- Output `log_valid` (R25). -/
  logValid : Bool
  /-- `LOG_ROW`, and the outputs `log_*` that show it (R25, R57). -/
  logRow : LogRow
  /-- The word the host bus returned in the step just run, if that step had a host read (R20, R21, R71). -/
  hostRdata : Option Word
  /-- The MODEL's own field, not the spec's: what the environment presents in the steps to come, one entry a step. After the last entry every step is quiet. -/
  inputs : List StepInput
  deriving DecidableEq, Repr

/-- The block after reset (R265, R267): idle, every register at the spec's reset value. -/
def State.reset : State where
  op := .idle
  calState := .idle
  substep := .none
  tmr := 0
  rxcnt := 0
  rxbuf := Vector.replicate 35 0
  sampleBuf := []
  supPending := false
  done := false
  reject := false
  recValid := false
  readValid := false
  errCode := .none
  errIndex := 0
  stopReq := .none
  batchRetry := 0
  cfg := Cfg.reset
  frame := Vector.replicate 35 0
  record := Vector.replicate 17 0
  rd := Reading.reset
  ses := Session.reset
  roundWrote := false
  roundStop := false
  corrExact := 0
  ppmExact := 0
  txEn := false
  supReqValid := false
  supReqOp := 0
  supReqArg := 0
  logValid := false
  logRow := LogRow.reset
  hostRdata := none
  inputs := []

/-- Where a step stops: only in states that spec/ says the block never holds. No instruction raises one, and no run from reset meets one (Safety.lean's invariant). -/
inductive Fault where
  /-- Raised by the sequencer when (`OP`, `CAL_STATE`, `SUBSTEP`) is none of the await points of R193, of which R28 says "Only the points named there exist". Safe: the model stops where the spec has no behaviour. -/
  | noAwaitPoint
  /-- Raised by the end of a batch of no samples (`N_SAMPLES` = 0 while measuring), whose median R200 leaves undefined; R190's check 1 keeps a run from it. Safe. -/
  | emptyBatch
  /-- Raised by COMPUTE when `rH` = `rL` or `CAL_GAIN` < 1, where R206, R208 or R211 is undefined; R190 and R194 keep a run from it. Safe. -/
  | undefinedCorrection
  deriving DecidableEq, Repr

/-- Why an instruction has no meaning in the model. -/
inductive Refusal where
  /-- Raised by exec for an instruction the model does not have. Safe: nothing is claimed of it. No arm raises it. -/
  | notModelled (mnemonic : String)
  deriving DecidableEq, Repr

/-- What a step or an instruction answers. -/
abbrev Result := Host.Outcome State Fault Refusal

end Sys2Proof.Machine
end

