-- ==== Sys2Proof/Machine/Arith.lean ====
section
/-! DEFINITION. The block's arithmetic: exact decimals, the rounding `rnd`, saturation, the settle growth and the integer square root (spec/00_scope.md rule R8, spec/44_calibration.md rules R204-R212). Everything is integer arithmetic: a rational is a pair of integers. -/

namespace Sys2Proof.Machine

/-- `dec(m, e)`, the rational `m × 10^e` (R8). A pair need not be normalised (R117). -/
structure Dec where
  mant : Int
  exp : Int
  deriving DecidableEq, Repr

/-- The integer `d / 10^e`, exact when `e` is at most d's exponent. -/
def Dec.scaled (d : Dec) (e : Int) : Int :=
  d.mant * ((10 ^ (d.exp - e).toNat : Nat) : Int)

/-- The lower of two exponents: both numbers are integers in that unit. -/
def Dec.common (a b : Dec) : Int := min a.exp b.exp

/-- `a - b`, exactly. -/
def Dec.sub (a b : Dec) : Dec where
  mant := a.scaled (a.common b) - b.scaled (a.common b)
  exp := a.common b

/-- `a × b`, exactly. -/
def Dec.mul (a b : Dec) : Dec where
  mant := a.mant * b.mant
  exp := a.exp + b.exp

/-- `a ≤ b` as values (R117). -/
def Dec.le (a b : Dec) : Bool :=
  a.scaled (a.common b) ≤ b.scaled (a.common b)

/-- `a = b` as values: `dec(10, -1)` and `dec(1, 0)` are equal (R117). -/
def Dec.eqv (a b : Dec) : Bool :=
  a.scaled (a.common b) = b.scaled (a.common b)

/-- A quotient of two integers, kept as the pair. -/
structure Ratio where
  num : Int
  den : Int
  deriving DecidableEq, Repr

/-- `a / b` as a quotient of integers. -/
def Dec.ratio (a b : Dec) : Ratio where
  num := a.scaled (a.common b)
  den := b.scaled (a.common b)

/-- `rnd(num / den)`: the nearest integer, ties away from zero (R8, D35). The pair's `den` is not 0. -/
def Ratio.rnd (q : Ratio) : Int :=
  let magnitude : Nat := (2 * q.num.natAbs + q.den.natAbs) / (2 * q.den.natAbs)
  if (decide (q.num < 0)) = (decide (q.den < 0)) then (magnitude : Int) else -(magnitude : Int)

/-- Is the quotient negative? -/
def Ratio.neg (q : Ratio) : Bool :=
  q.num ≠ 0 && (decide (q.num < 0)) != (decide (q.den < 0))

/-- The integer square root by binary digits, with fuel for `fuel` pairs of bits. -/
def isqrtAux : Nat → Nat → Nat
  | 0, _ => 0
  | fuel + 1, n =>
    let r := 2 * isqrtAux fuel (n / 4)
    if (r + 1) * (r + 1) ≤ n then r + 1 else r

/-- The largest r with r² ≤ n. -/
def isqrt (n : Nat) : Nat := isqrtAux (n.log2 + 1) n

/-- `floor(4x)` for `x = G² × slope`, slope ≥ 0 (R208). -/
def fourX (g : Int) (slope : Ratio) : Nat :=
  (4 * g.natAbs * g.natAbs * slope.num.natAbs) / slope.den.natAbs

/-- The damped gain of R208: `max { n ≥ 1 : (2n - 1)² ≤ 4x }`, or 0 when 4x < 1.
`(2n - 1)²` is an integer, so `(2n - 1)² ≤ 4x` iff `2n - 1 ≤ isqrt (floor(4x))`. -/
def dampedGain (g : Int) (slope : Ratio) : Int :=
  (((isqrt (fourX g slope) + 1) / 2 : Nat) : Int)

/-- `rnd(G × slope)` (R207). -/
def undampedGain (g : Int) (slope : Ratio) : Int :=
  Ratio.rnd { num := g * slope.num, den := slope.den }

/-- `sat32(z)`: z clamped to the s32 range (R8). -/
def sat32 (z : Int) : Word :=
  if z < -(2 ^ 31) then BitVec.ofInt 32 (-(2 ^ 31))
  else if 2 ^ 31 - 1 < z then BitVec.ofInt 32 (2 ^ 31 - 1)
  else BitVec.ofInt 32 z

/-- `min(v + 1, 2^w - 1)`: a counter that saturates (R51, R54, R199, R202, R217, R251). -/
def satInc {w : Nat} (v : BitVec w) : BitVec w :=
  if v = BitVec.allOnes w then v else v + 1

/-- `grow(s) = min(2^32 - 1, s + ceil(s / 4))` (R204). -/
def grow (s : Word) : Word :=
  BitVec.ofNat 32 (min (2 ^ 32 - 1) (s.toNat + (s.toNat + 3) / 4))

end Sys2Proof.Machine
end

