-- ==== Sys2Proof/Machine/Flags.lean ====
section
/-! DEFINITION. The codes of the enumerated registers, the bits of STATUS, CAL_STATUS, RD_ATTR and CAL_CTRL, and the DisplayState flags and views computed from REC (spec/10_state.md rules R26-R32, R41, R46, R47; spec/41_frame_decoder.md rules R139-R142). -/

namespace Sys2Proof.Machine

/-! ### Codes -/

/-- `OP`'s codes (R26). -/
def Op.code : Op → BitVec 4
  | .idle => 0
  | .acqPulse => 1
  | .acqRead => 2
  | .smpPulse => 3
  | .smpRead => 4
  | .cal => 8

/-- `CAL_STATE`'s codes (R27). -/
def CalState.code : CalState → BitVec 4
  | .idle => 0
  | .readCal => 1
  | .setLow => 2
  | .measLow => 3
  | .setHigh => 4
  | .measHigh => 5
  | .compute => 6
  | .writeCal => 7
  | .logRound => 8
  | .converged => 9
  | .failed => 10
  | .aborted => 11

/-- The running states 1-8 (R27). -/
def CalState.running : CalState → Bool
  | .idle | .converged | .failed | .aborted => false
  | .readCal | .setLow | .measLow | .setHigh | .measHigh | .compute | .writeCal | .logRound => true

/-- `STOP_REQ`'s codes (R32). -/
def StopReq.code : StopReq → BitVec 2
  | .none => 0
  | .keep => 1
  | .adjust => 2
  | .abort => 3

/-- `ERR_CODE`'s values (R240). -/
def ErrCode.code : ErrCode → Byte
  | .none => 0x00
  | .transportTimeout => 0x01
  | .framingError => 0x02
  | .noRecord => 0x03
  | .illegalCommand => 0x04
  | .configError => 0x05
  | .calUnstable => 0x10
  | .calTimeout => 0x11
  | .calDivergence => 0x12
  | .calAcqFail => 0x13
  | .calSupplyTimeout => 0x14
  | .calAborted => 0x15

/-- `RD_ATTR.PREFIX`'s codes (R110). -/
def Scale.code : Scale → BitVec 3
  | .none => 0
  | .nano => 1
  | .micro => 2
  | .milli => 3
  | .kilo => 4
  | .mega => 5

/-- `RD_ATTR.MOD`'s codes (R113). -/
def Modifier.code : Modifier → BitVec 3
  | .none => 0
  | .min => 1
  | .max => 2
  | .peakToPeak => 3
  | .delta => 4

/-! ### STATUS and the other packed registers -/

/-- `STATUS.BUSY` = (`OP` ≠ IDLE) (R26). -/
def State.busy (s : State) : Bool := s.op ≠ .idle

/-- `STATUS.ERR` = (`ERR_CODE` ≠ 0) (R31). -/
def State.err (s : State) : Bool := s.errCode ≠ .none

/-- `STATUS.UNMAPPED` = (`RD_UNMAPPED` ≠ 0) (R31). -/
def State.unmappedFlag (s : State) : Bool := s.rd.unmapped ≠ 0

/-- `SAMPLE_IDX` (R28): the samples accepted in the current batch. -/
def State.sampleIdx (s : State) : Nat := s.sampleBuf.length

/-- `STATUS` as read (R31), from bit 31 down. -/
def statusWord (s : State) : Word :=
  0#2 ++ s.errIndex ++ s.errCode.code ++ s.op.code ++ 0#2
    ++ BitVec.ofBool s.txEn ++ BitVec.ofBool s.rd.swinv ++ BitVec.ofBool s.unmappedFlag
    ++ BitVec.ofBool s.calState.running ++ BitVec.ofBool s.readValid ++ BitVec.ofBool s.recValid
    ++ BitVec.ofBool s.reject ++ BitVec.ofBool s.err ++ BitVec.ofBool s.done ++ BitVec.ofBool s.busy

/-- `CAL_STATUS` as read (R32). -/
def calStatusWord (s : State) : Word :=
  0#15 ++ s.batchRetry ++ 0#2 ++ s.stopReq.code ++ s.calState.code

/-- `CAL_CTRL` as read (R41). -/
def calCtrlWord (c : Cfg) : Word :=
  0#16 ++ c.refChannel ++ 0#6 ++ BitVec.ofBool c.tolEn ++ BitVec.ofBool c.gainDamp

/-- `RD_ATTR` as read (R47). -/
def rdAttrWord (r : Reading) : Word :=
  0#14 ++ BitVec.ofBool r.swinv ++ BitVec.ofBool r.neg ++ 0#1 ++ r.modifier.code ++ 0#2
    ++ r.acdc ++ r.unit ++ 0#1 ++ r.scale.code

/-! ### The DisplayState flags (R139) -/

/-- dBm, `REC[1][0]`. -/
def flagDbm (r : Record) : Bool := r[1].getLsbD 0
/-- milli, `REC[1][1]`. -/
def flagMilli (r : Record) : Bool := r[1].getLsbD 1
/-- micro, `REC[1][2]`. -/
def flagMicro (r : Record) : Bool := r[1].getLsbD 2
/-- kilo, `REC[1][6]`. -/
def flagKilo (r : Record) : Bool := r[1].getLsbD 6
/-- Mega, `REC[1][7]`. -/
def flagMega (r : Record) : Bool := r[1].getLsbD 7
/-- Auto, `REC[2][0]`. -/
def flagAuto (r : Record) : Bool := r[2].getLsbD 0
/-- Hold, `REC[2][1]`. -/
def flagHold (r : Record) : Bool := r[2].getLsbD 1
/-- DC, `REC[2][2]`. -/
def flagDc (r : Record) : Bool := r[2].getLsbD 2
/-- AC, `REC[2][3]`. -/
def flagAc (r : Record) : Bool := r[2].getLsbD 3
/-- nano, `REC[2][6]`. -/
def flagNano (r : Record) : Bool := r[2].getLsbD 6
/-- beep, `REC[9][6]`. -/
def flagBeep (r : Record) : Bool := r[9].getLsbD 6
/-- Min, `REC[15][2]`. -/
def flagMin (r : Record) : Bool := r[15].getLsbD 2
/-- Max, `REC[16][1]`. -/
def flagMax (r : Record) : Bool := r[16].getLsbD 1
/-- PeakToPeak, `REC[16][2]`. -/
def flagPeakToPeak (r : Record) : Bool := r[16].getLsbD 2
/-- Delta, `REC[16][3]`. -/
def flagDelta (r : Record) : Bool := r[16].getLsbD 3
/-- percent, `REC[15][4]`. -/
def flagPercent (r : Record) : Bool := r[15].getLsbD 4

/-- `DS_FLAGS` (R46, R139): bits 7:0 are `REC[1]` as it stands (dBm, milli, micro, Volts, Hz, Ohms, kilo, Mega). -/
def dsFlagsWord (r : Record) : Word :=
  0#13 ++ BitVec.ofBool (flagPercent r) ++ BitVec.ofBool (flagDelta r) ++ BitVec.ofBool (flagPeakToPeak r)
    ++ BitVec.ofBool (flagMax r) ++ BitVec.ofBool (flagMin r) ++ BitVec.ofBool (flagBeep r)
    ++ BitVec.ofBool (flagNano r) ++ BitVec.ofBool (flagAc r) ++ BitVec.ofBool (flagDc r)
    ++ BitVec.ofBool (flagHold r) ++ BitVec.ofBool (flagAuto r) ++ r[1]

/-! ### Digit cells and bargraph -/

/-- Cell k, `REC[3+k]` (R140). -/
def cellByte (r : Record) (k : Fin 6) : Byte := r[3 + k.val]

/-- `SEG_k` (R103, R140). -/
def cellSeg (f : DigitFlagBit) (c : Byte) : BitVec 7 :=
  match f with
  | .bit7 => c.extractLsb' 0 7
  | .bit0 => c.extractLsb' 1 7

/-- `FLAG_k` (R103, R140). -/
def cellFlag (f : DigitFlagBit) (c : Byte) : Bool :=
  match f with
  | .bit7 => c.getLsbD 7
  | .bit0 => c.getLsbD 0

/-- `DS_CELL[k]` (R46, R140): RAW in 23:16, FLAG in 8, SEG in 6:0. -/
def dsCellWord (f : DigitFlagBit) (r : Record) (k : Fin 6) : Word :=
  0#8 ++ cellByte r k ++ 0#7 ++ BitVec.ofBool (cellFlag f (cellByte r k)) ++ 0#1 ++ cellSeg f (cellByte r k)

/-- Bargraph segment s, for s = 0..49 (R141); false for any other s. -/
def barSegment (r : Record) (s : Nat) : Bool :=
  if s < 6 then r[9].getLsbD s
  else if s < 46 then (r[10 + (s - 6) / 8]?.getD 0).getLsbD ((s - 6) % 8)
  else if s < 49 then r[15].getLsbD (s - 41)
  else if s = 49 then r[16].getLsbD 0
  else false

/-- The word whose bit i is `f i` for i < n, and 0 above. -/
def bitsWord (f : Nat → Bool) : Nat → Word
  | 0 => 0
  | n + 1 => bitsWord f n ||| (if f n then 1#32 <<< n else 0)

/-- `DS_BAR_LO` (R141): segments 0-31. -/
def dsBarLoWord (r : Record) : Word := bitsWord (barSegment r) 32

/-- `DS_BAR_HI` (R141): segments 32-49 in bits 17:0. -/
def dsBarHiWord (r : Record) : Word := bitsWord (fun i => barSegment r (32 + i)) 18

/-- `DS_SWPOS` (R142). -/
def dsSwposWord (r : Record) : Word := r[0].setWidth 32

end Sys2Proof.Machine
end

