-- ==== Sys2Proof/Machine/Operands.lean ====
section
/-! DEFINITION. The operands of the commands: every register of the host window by name and offset (spec/10_state.md rule R29), its value as read and its field as written (spec/20_memory.md rules R71-R74), and the decimal operands of calibration (spec/30_encoding.md rule R117). -/

namespace Sys2Proof.Machine

/-- The configuration registers (R34-R43): read and written while idle. -/
inductive CfgReg where
  | pulseMs
  | timeoutMs
  | nSamples
  | noiseThrMant
  | noiseThrExp
  | settleInitMs
  | settleMaxMs
  | maxBatchRetries
  | maxRounds
  | maxAcqFails
  | supTimeoutMs
  | refLowMant
  | refLowExp
  | refHighMant
  | refHighExp
  | setLowArg
  | setHighArg
  | calCtrl
  | offsetMin
  | offsetMax
  | gainMin
  | gainMax
  | ppmTol
  | offsetTol
  deriving DecidableEq, Repr

/-- The calibration session registers (R49-R54): read-only. -/
inductive SesReg where
  | calOffset
  | calGain
  | calMlowMant
  | calMlowExp
  | calMhighMant
  | calMhighExp
  | calSettleMs
  | calRetryCount
  | calRound
  | calBoardId
  | calTemp
  | calPpm
  | calOffCorr
  | calAcqFails
  | calAcqRun
  | calNewOffset
  | calNewGain
  deriving DecidableEq, Repr

/-- The host-visible registers (R29). -/
inductive Reg where
  | cmd
  | status
  | calStatus
  | rxCount
  | timer
  | cfg (r : CfgReg)
  | frame (i : Fin 35)
  | recByte (i : Fin 17)
  | dsFlags
  | dsSwpos
  | dsCell (k : Fin 6)
  | dsBarLo
  | dsBarHi
  | rdMant
  | rdExp
  | rdAttr
  | rdTextLen
  | rdText (j : Fin 12)
  | rdUnmapped
  | ses (r : SesReg)
  deriving DecidableEq, Repr

/-- Control and status, 0x000-0x010 (R86). -/
def regMapControl : List (Nat × Reg) :=
  [(0x000, .cmd), (0x004, .status), (0x008, .calStatus), (0x00C, .rxCount), (0x010, .timer)]

/-- Configuration, 0x020-0x07C (R86). -/
def regMapConfig : List (Nat × Reg) :=
  [(0x020, .cfg .pulseMs), (0x024, .cfg .timeoutMs), (0x028, .cfg .nSamples), (0x02C, .cfg .noiseThrMant),
      (0x030, .cfg .noiseThrExp), (0x034, .cfg .settleInitMs), (0x038, .cfg .settleMaxMs), (0x03C, .cfg .maxBatchRetries),
      (0x040, .cfg .maxRounds), (0x044, .cfg .maxAcqFails), (0x048, .cfg .supTimeoutMs), (0x04C, .cfg .refLowMant),
      (0x050, .cfg .refLowExp), (0x054, .cfg .refHighMant), (0x058, .cfg .refHighExp), (0x05C, .cfg .setLowArg),
      (0x060, .cfg .setHighArg), (0x064, .cfg .calCtrl), (0x068, .cfg .offsetMin), (0x06C, .cfg .offsetMax),
      (0x070, .cfg .gainMin), (0x074, .cfg .gainMax), (0x078, .cfg .ppmTol), (0x07C, .cfg .offsetTol)]

/-- The frame buffer, 0x100-0x188 (R86). -/
def regMapFrames : List (Nat × Reg) :=
  List.ofFn (fun i : Fin 35 => (0x100 + 4 * i.val, Reg.frame i))

/-- The Record, 0x200-0x240 (R86). -/
def regMapRecords : List (Nat × Reg) :=
  List.ofFn (fun i : Fin 17 => (0x200 + 4 * i.val, Reg.recByte i))

/-- DisplayState flags and switch position (R46). -/
def regMapDsHead : List (Nat × Reg) :=
  [(0x280, .dsFlags), (0x284, .dsSwpos)]

/-- DisplayState cells (R46). -/
def regMapDsCells : List (Nat × Reg) :=
  List.ofFn (fun k : Fin 6 => (0x288 + 4 * k.val, Reg.dsCell k))

/-- DisplayState bargraph (R46). -/
def regMapDsBars : List (Nat × Reg) :=
  [(0x2A0, .dsBarLo), (0x2A4, .dsBarHi)]

/-- The Reading's numbers (R47). -/
def regMapReadings : List (Nat × Reg) :=
  [(0x300, .rdMant), (0x304, .rdExp), (0x308, .rdAttr), (0x30C, .rdTextLen)]

/-- The Reading's text (R48). -/
def regMapTexts : List (Nat × Reg) :=
  List.ofFn (fun j : Fin 12 => (0x310 + 4 * j.val, Reg.rdText j))

/-- The Reading's diagnostic (R48). -/
def regMapUnmapped : List (Nat × Reg) :=
  [(0x340, .rdUnmapped)]

/-- The calibration session, 0x400-0x440 (R86). -/
def regMapSession : List (Nat × Reg) :=
  [(0x400, .ses .calOffset), (0x404, .ses .calGain), (0x408, .ses .calMlowMant), (0x40C, .ses .calMlowExp),
      (0x410, .ses .calMhighMant), (0x414, .ses .calMhighExp), (0x418, .ses .calSettleMs), (0x41C, .ses .calRetryCount),
      (0x420, .ses .calRound), (0x424, .ses .calBoardId), (0x428, .ses .calTemp), (0x42C, .ses .calPpm),
      (0x430, .ses .calOffCorr), (0x434, .ses .calAcqFails), (0x438, .ses .calAcqRun), (0x43C, .ses .calNewOffset),
      (0x440, .ses .calNewGain)]

/-- The register map (R29): offset and register. -/
def regMap : List (Nat × Reg) :=
  List.flatten [regMapControl, regMapConfig, regMapFrames, regMapRecords, regMapDsHead, regMapDsCells, regMapDsBars,
     regMapReadings, regMapTexts, regMapUnmapped, regMapSession]

/-- `off[11:2] << 2` (R71-R73): bits 1:0 of an offset are ignored. -/
def wordOffset (off : BitVec 12) : Nat := 4 * (off.toNat / 4)

/-- The register an offset names, or none where the window is unmapped (R72, R73, R86). -/
def regAt (off : BitVec 12) : Option Reg :=
  (regMap.find? (fun e => e.1 == wordOffset off)).map (·.2)

/-- An unsigned field as read: `zext_32` (R74). -/
def zext {w : Nat} (v : BitVec w) : Word := v.setWidth 32

/-- A signed 8-bit field as read: `sext_32` (R74). -/
def sext (v : Byte) : Word := v.signExtend 32

/-- A configuration register as read (R74): unnamed bits 0, signed fields sign-extended. -/
def readCfg (c : Cfg) : CfgReg → Word
  | .pulseMs => zext c.pulseMs
  | .timeoutMs => zext c.timeoutMs
  | .nSamples => zext c.nSamples
  | .noiseThrMant => c.noiseThrMant
  | .noiseThrExp => sext c.noiseThrExp
  | .settleInitMs => zext c.settleInitMs
  | .settleMaxMs => zext c.settleMaxMs
  | .maxBatchRetries => zext c.maxBatchRetries
  | .maxRounds => zext c.maxRounds
  | .maxAcqFails => zext c.maxAcqFails
  | .supTimeoutMs => zext c.supTimeoutMs
  | .refLowMant => c.refLowMant
  | .refLowExp => sext c.refLowExp
  | .refHighMant => c.refHighMant
  | .refHighExp => sext c.refHighExp
  | .setLowArg => c.setLowArg
  | .setHighArg => c.setHighArg
  | .calCtrl => calCtrlWord c
  | .offsetMin => c.offsetMin
  | .offsetMax => c.offsetMax
  | .gainMin => c.gainMin
  | .gainMax => c.gainMax
  | .ppmTol => c.ppmTol
  | .offsetTol => c.offsetTol

/-- A session register as read (R74). -/
def readSes (x : Session) : SesReg → Word
  | .calOffset => x.offset
  | .calGain => x.gain
  | .calMlowMant => x.mlowMant
  | .calMlowExp => sext x.mlowExp
  | .calMhighMant => x.mhighMant
  | .calMhighExp => sext x.mhighExp
  | .calSettleMs => x.settleMs
  | .calRetryCount => x.retryCount
  | .calRound => zext x.round
  | .calBoardId => x.boardId
  | .calTemp => x.temp
  | .calPpm => x.ppm
  | .calOffCorr => x.offCorr
  | .calAcqFails => x.acqFails
  | .calAcqRun => zext x.acqRun
  | .calNewOffset => x.newOffset
  | .calNewGain => x.newGain

/-- The word a register reads as (R71): unnamed bits 0, views computed from the state. -/
def readReg (b : BuildParams) (s : State) : Reg → Word
  | .cmd => 0
  | .status => statusWord s
  | .calStatus => calStatusWord s
  | .rxCount => zext s.rxcnt
  | .timer => s.tmr
  | .cfg r => readCfg s.cfg r
  | .frame i => zext s.frame[i]
  | .recByte i => zext s.record[i]
  | .dsFlags => dsFlagsWord s.record
  | .dsSwpos => dsSwposWord s.record
  | .dsCell k => dsCellWord b.digitFlagBit s.record k
  | .dsBarLo => dsBarLoWord s.record
  | .dsBarHi => dsBarHiWord s.record
  | .rdMant => zext s.rd.mant
  | .rdExp => sext s.rd.exp
  | .rdAttr => rdAttrWord s.rd
  | .rdTextLen => zext s.rd.textLen
  | .rdText j => zext s.rd.text[j]
  | .rdUnmapped => zext s.rd.unmapped
  | .ses r => readSes s.ses r

/-- `MemRead(off, 4)` (R71): an unmapped offset reads 0; a read changes nothing. -/
def memRead (b : BuildParams) (s : State) (off : BitVec 12) : Word :=
  match regAt off with
  | some r => readReg b s r
  | none => 0

/-- A configuration register's defined field bits, stored from the low bits of the written word (R74, R182). -/
def storeCfg (c : Cfg) (v : Word) : CfgReg → Cfg
  | .pulseMs => { c with pulseMs := v.setWidth 16 }
  | .timeoutMs => { c with timeoutMs := v.setWidth 16 }
  | .nSamples => { c with nSamples := v.setWidth 12 }
  | .noiseThrMant => { c with noiseThrMant := v }
  | .noiseThrExp => { c with noiseThrExp := v.setWidth 8 }
  | .settleInitMs => { c with settleInitMs := v.setWidth 24 }
  | .settleMaxMs => { c with settleMaxMs := v.setWidth 24 }
  | .maxBatchRetries => { c with maxBatchRetries := v.setWidth 8 }
  | .maxRounds => { c with maxRounds := v.setWidth 16 }
  | .maxAcqFails => { c with maxAcqFails := v.setWidth 16 }
  | .supTimeoutMs => { c with supTimeoutMs := v.setWidth 16 }
  | .refLowMant => { c with refLowMant := v }
  | .refLowExp => { c with refLowExp := v.setWidth 8 }
  | .refHighMant => { c with refHighMant := v }
  | .refHighExp => { c with refHighExp := v.setWidth 8 }
  | .setLowArg => { c with setLowArg := v }
  | .setHighArg => { c with setHighArg := v }
  | .calCtrl => { c with gainDamp := v.getLsbD 0, tolEn := v.getLsbD 1, refChannel := v.extractLsb' 8 8 }
  | .offsetMin => { c with offsetMin := v }
  | .offsetMax => { c with offsetMax := v }
  | .gainMin => { c with gainMin := v }
  | .gainMax => { c with gainMax := v }
  | .ppmTol => { c with ppmTol := v }
  | .offsetTol => { c with offsetTol := v }

/-! ### Decimal operands (R117) -/

/-- `v(REF_LOW)`, the rule's rL. -/
def Cfg.refLow (c : Cfg) : Dec := { mant := c.refLowMant.toInt, exp := c.refLowExp.toInt }

/-- `v(REF_HIGH)`, the rule's rH. -/
def Cfg.refHigh (c : Cfg) : Dec := { mant := c.refHighMant.toInt, exp := c.refHighExp.toInt }

/-- `v(NOISE_THR)`, the rule's thr: a u32 mantissa (R36). -/
def Cfg.noiseThr (c : Cfg) : Dec := { mant := (c.noiseThrMant.toNat : Int), exp := c.noiseThrExp.toInt }

/-- `v(CAL_MLOW)`, the rule's vL. -/
def Session.mLow (x : Session) : Dec := { mant := x.mlowMant.toInt, exp := x.mlowExp.toInt }

/-- `v(CAL_MHIGH)`, the rule's vH. -/
def Session.mHigh (x : Session) : Dec := { mant := x.mhighMant.toInt, exp := x.mhighExp.toInt }

/-- `(-1)^NEG × MANT`. -/
def signedMant (neg : Bool) (mant : BitVec 20) : Int :=
  if neg then -(mant.toNat : Int) else (mant.toNat : Int)

/-- `v(x)` of a sample. -/
def Sample.value (x : Sample) : Dec := { mant := signedMant x.neg x.mant, exp := x.exp.toInt }

/-- The value of the Reading registers (R47). -/
def Reading.value (r : Reading) : Dec := { mant := signedMant r.neg r.mant, exp := r.exp.toInt }

end Sys2Proof.Machine
end

