-- ==== Sys2Proof/Machine/Ops.lean ====
section
/-! DEFINITION. The operations the instructions and the sequencer share: raising an error (the block's counterpart of taking an exception, spec/60_exceptions.md rule R243), command acceptance and completion (spec/43_host_commands.md rule R175), reset (spec/70_reset_and_hazards.md rule R265), byte capture and ticks (spec/40_frame_reader.md rules R121, R126, R127), supply requests (spec/00_scope.md rule R13), the transition `goto` (spec/44_calibration.md rule R192), and host writes (spec/20_memory.md rule R72). -/

namespace Sys2Proof.Machine

/-- Run the second action on the state the first one leaves; a stop of the first is the stop of both. -/
def andThen (r : Result) (f : State → Result) : Result :=
  match r with
  | .next s => f s
  | .fault e => .fault e
  | .refused e => .refused e

/-! ### Errors and completion -/

/-- The operation in progress ends: `OP <- IDLE`, `DONE <- 1`, no await point (R175, R243). -/
@[simps] def State.complete (s : State) : State :=
  { s with op := .idle, substep := .none, done := true }

/-- A command that completes in the step that runs it: `DONE <- 1` (R175). -/
@[simps] def State.setDone (s : State) : State := { s with done := true }

/-- `ERR_CODE <- E; ERR_INDEX <- i`. -/
@[simps] def State.setErr (s : State) (e : ErrCode) (i : BitVec 6) : State :=
  { s with errCode := e, errIndex := i }

/-- What `raise` does to a running calibration (R220, R243): FAILED, and nothing left outstanding. -/
@[simps] def State.failRun (s : State) : State :=
  { s with calState := .failed, txEn := false, logValid := false, supPending := false }

/-- `raise E(i)` (R243): record the code, fail the run if one is on, and end the operation. There is no handler and no vector. -/
def raiseError (e : ErrCode) (i : BitVec 6) (s : State) : State :=
  if s.calState.running then ((s.setErr e i).failRun).complete
  else (s.setErr e i).complete

/-- The return from an error (R246): a command that runs while idle begins with `ERR_CODE <- 0; ERR_INDEX <- 0` (R175). -/
def clearErr (s : State) : State := s.setErr .none 0

/-- A command or write is ignored: `REJECT <- 1` and nothing else (R175, R274). -/
@[simps] def State.setReject (s : State) : State := { s with reject := true }

/-- R175 for a command that is accepted only while idle: rejected while `BUSY` = 1; else it clears the error and runs. -/
def whenIdle (s : State) (run : State → State) : State :=
  if s.busy then s.setReject else run (clearErr s)

/-- A command that completes later: `DONE <- 0` at its start (R175). -/
@[simps] def State.accept (s : State) : State := { s with done := false }

/-- An illegal command word (R180): rejected while busy; while idle it raises `ILLEGAL_COMMAND`. -/
def illegalCommand (s : State) : State :=
  if s.busy then s.setReject else raiseError .illegalCommand 0 s

/-! ### Reset -/

/-- R265: every register, output and internal register at its reset value. The steps to come are the environment's and stay. -/
def resetBlock (s : State) : State := { State.reset with inputs := s.inputs }

/-! ### Ticks, bytes and the acquisition's start -/

/-- `if tick: TMR <- TMR + 1`, saturating (R127, R251). -/
def countTick (tick : Bool) (s : State) : State :=
  if tick then { s with tmr := satInc s.tmr } else s

/-- Is the sequencer waiting at `pulse_end` or `read_end` (R122, R123)? -/
def State.acquiring (s : State) : Bool :=
  s.substep = .aPulse || s.substep = .aRead

/-- One byte into `RXBUF[RXCNT]`. -/
def State.pushByte (s : State) (b : Byte) : State :=
  if h : s.rxcnt.toNat < 35 then { s with rxbuf := s.rxbuf.set s.rxcnt.toNat b, rxcnt := s.rxcnt + 1 } else s

/-- `capture()` on a received byte (R126): kept while the acquisition waits and fewer than 35 are held; discarded otherwise. -/
def capture (b : Byte) (s : State) : State :=
  if s.acquiring then s.pushByte b else s

/-- The start of `acq_body` (R121), with the label `OP` shows during the pulse (`CAL` inside a calibration). -/
@[simps] def startAcq (label : Op) (s : State) : State :=
  { s with rxcnt := 0, txEn := true, tmr := 0, op := label, substep := .aPulse }

/-- The end of the pulse (R122): the line falls, the read phase begins. -/
@[simps] def endPulse (label : Op) (s : State) : State :=
  { s with txEn := false, tmr := 0, op := label, substep := .aRead }

/-! ### Supply requests -/

/-- The start of `txn(op, arg)` (R13, R24): the request shows on the supply port from the next step, the timer restarts, one request is outstanding, and the sequencer holds at the transaction's await point. -/
@[simps] def emitRequest (op : BitVec 4) (arg : Word) (at_ : Await) (s : State) : State :=
  { s with supReqValid := true, supReqOp := op, supReqArg := arg, supPending := true, tmr := 0, substep := at_ }

/-! ### Transitions -/

/-- A pending abort is taken at a transition (R192). -/
def takeAbort (s : State) : State :=
  { (s.setErr .calAborted (s.calState.code.setWidth 6)).complete with calState := .aborted }

/-- `goto(S)` (R192): an abort is honoured here and nowhere else; CONVERGED ends the run. -/
def gotoState (t : CalState) (s : State) : State :=
  if s.stopReq = .abort then takeAbort s
  else if t = .converged then { s.complete with calState := .converged }
  else { s with calState := t, substep := .entry }

/-- `STOP_REQ <- r`, the latch of a stop command (R222-R224). -/
@[simps] def State.latchStop (s : State) (r : StopReq) : State := { s with stopReq := r }

/-- R175, R222-R224: a stop command completes as NOP while idle, latches its request while a calibration runs, and is rejected while any other command is busy. -/
def stopCommand (r : StopReq) (s : State) : State :=
  if s.op = .idle then (clearErr s).setDone
  else if s.op = .cal then s.latchStop r
  else s.setReject

/-! ### Host writes -/

/-- A write of `STATUS` (R72, R184): `if v[1]: DONE <- 0; if v[3]: REJECT <- 0`, busy or idle. -/
@[simps] def writeStatus (v : Word) (s : State) : State :=
  { s with done := s.done && !v.getLsbD 1, reject := s.reject && !v.getLsbD 3 }

/-- A write of a configuration register or of `FRAME[i]` (R72, R182, R183): ignored with `REJECT` while busy. -/
def writeWhenIdle (s : State) (t : State) : State :=
  if s.busy then s.setReject else t

/-- A host write of a register other than `CMD` (R72). Read-only registers and views ignore it. -/
def writeReg (r : Reg) (v : Word) (s : State) : State :=
  match r with
  | .cmd => s
  | .status => writeStatus v s
  | .cfg r => writeWhenIdle s { s with cfg := storeCfg s.cfg v r }
  | .frame i => writeWhenIdle s { s with frame := s.frame.set i.val (v.setWidth 8) }
  | .calStatus | .rxCount | .timer => s
  | .recByte _ | .dsFlags | .dsSwpos | .dsCell _ | .dsBarLo | .dsBarHi => s
  | .rdMant | .rdExp | .rdAttr | .rdTextLen | .rdText _ | .rdUnmapped => s
  | .ses _ => s

end Sys2Proof.Machine
end

