-- ==== Sys2Proof/Machine/FrameDecoder.lean ====
section
/-! DEFINITION. The frame decoder and the DECODE command (spec/41_frame_decoder.md rules R135-R147). -/

namespace Sys2Proof.Machine

/-- The first symbol, in increasing order, whose framing bits are wrong (R136). -/
def firstInvalid (f : Frame) : Option (Fin 35) :=
  (List.finRange 35).find? (fun i => !validSymbol f[i])

/-- Record byte i before byte 0 is inverted (R137): high nibble from symbol 2i+1, low nibble from symbol 2i+2. -/
def packByte (f : Frame) (i : Fin 17) : Byte :=
  nibbleOf f[2 * i.val + 1] ++ nibbleOf f[2 * i.val + 2]

/-- Nibble packing and the inversion of byte 0 (R137, R138). -/
def unpackRecord (f : Frame) : Record :=
  Vector.ofFn (fun i : Fin 17 => if i.val = 0 then ~~~(packByte f i) else packByte f i)

/-- `decode_core` (R136): a Record, or the lowest index of an invalid symbol. Symbol 0 is validated and its nibble is not used. -/
def decodeCore (f : Frame) : Except (Fin 35) Record :=
  match firstInvalid f with
  | some i => .error i
  | none => .ok (unpackRecord f)

/-- A successful decode (R135): all 17 bytes in one step; the old Reading is no longer valid. -/
@[simps] def State.storeRecord (s : State) (r : Record) : State :=
  { s with record := r, recValid := true, readValid := false }

/-- A failed decode (R135): `REC` keeps its old bytes and is no longer valid. -/
@[simps] def State.dropRecord (s : State) : State :=
  { s with recValid := false, readValid := false }

/-- `DECODE`'s body (R135). -/
def decodeFrame (s : State) : State :=
  match decodeCore s.frame with
  | .error i => raiseError .framingError (BitVec.ofNat 6 i.val) s.dropRecord
  | .ok r => (s.storeRecord r).setDone

/-- `DECODE` (R135). -/
def execDecode (s : State) : Result := .next (whenIdle s decodeFrame)

/-! ### Encoders (R146, R147) -/

/-- The frame of a sync nibble and 34 payload nibbles (R146). -/
def encodeNibbles (n0 : BitVec 4) (nib : Fin 34 → BitVec 4) : Frame :=
  Vector.ofFn (fun i : Fin 35 => if h : i.val = 0 then symbolOf n0 else symbolOf (nib ⟨i.val - 1, by omega⟩))

/-- The Record with byte 0 as it is transmitted (R138, R147). -/
def transmitted (r : Record) (i : Fin 17) : Byte := if i.val = 0 then ~~~r[i] else r[i]

/-- Payload nibble j of a Record (R147): the high nibble of byte j/2 when j is even, its low nibble when j is odd. -/
def recordNibble (r : Record) (j : Fin 34) : BitVec 4 :=
  let b := transmitted r ⟨j.val / 2, by omega⟩
  if j.val % 2 = 0 then b.extractLsb' 4 4 else b.extractLsb' 0 4

/-- The Record-to-frame encoder (R147). -/
def encodeRecord (n0 : BitVec 4) (r : Record) : Frame := encodeNibbles n0 (recordNibble r)

end Sys2Proof.Machine
end

