-- ==== Sys2Proof/Machine/Mapper.lean ====
section
/-! DEFINITION. The reading mapper and the MAP command (spec/42_reading_mapper.md rules R150-R164). -/

namespace Sys2Proof.Machine

/-- The characters of the output buffer (R109): the codebook's glyphs and the decimal point. -/
inductive TextChar where
  | digit (d : Fin 10)
  | letterE
  | letterL
  | letterN
  | letterR
  | minus
  | point
  deriving DecidableEq, Repr

/-- The character's code (R109). -/
def TextChar.ascii : TextChar → Byte
  | .digit d => 0x30 + BitVec.ofNat 8 d.val
  | .letterE => 0x45
  | .letterL => 0x4C
  | .letterN => 0x6E
  | .letterR => 0x72
  | .minus => 0x2D
  | .point => 0x2E

/-- `GLYPH[g]`: the codebook's order `0123456789ELnr-` (R108, R153). -/
def glyph (g : Fin 15) : TextChar :=
  if h : g.val < 10 then .digit ⟨g.val, h⟩
  else if g.val = 10 then .letterE
  else if g.val = 11 then .letterL
  else if g.val = 12 then .letterN
  else if g.val = 13 then .letterR
  else .minus

/-- `lookup(p)` (R153): the glyph index whose pattern is p. The patterns are pairwise distinct, so at most one matches. -/
def lookupGlyph (b : BuildParams) (p : BitVec 7) : Option (Fin 15) :=
  (List.finRange 15).find? (fun g => b.segCodebook[g] = p)

/-- The characters of cell k (R152): the flag's character, then the glyph. -/
def cellText (b : BuildParams) (r : Record) (k : Fin 6) : List TextChar :=
  let c := cellByte r k
  let flag := if cellFlag b.digitFlagBit c then [if k.val = 0 then .minus else .point] else []
  let seg := cellSeg b.digitFlagBit c
  let shown :=
    if seg = 0 then []
    else match lookupGlyph b seg with
      | some g => [glyph g]
      | none => []
  flag ++ shown

/-- `U[k]` (R152): cell k has a nonzero pattern that is not in the codebook. -/
def cellUnmapped (b : BuildParams) (r : Record) (k : Fin 6) : Bool :=
  let seg := cellSeg b.digitFlagBit (cellByte r k)
  seg ≠ 0 && (lookupGlyph b seg).isNone

/-- TEXT (R152): the six cells in order, leftmost first. -/
def displayText (b : BuildParams) (r : Record) : List TextChar :=
  (List.finRange 6).flatMap (cellText b r)

/-- U (R152), bit k for cell k. -/
def unmappedCells (b : BuildParams) (r : Record) : BitVec 6 :=
  BitVec.ofBool (cellUnmapped b r 5) ++ BitVec.ofBool (cellUnmapped b r 4) ++ BitVec.ofBool (cellUnmapped b r 3)
    ++ BitVec.ofBool (cellUnmapped b r 2) ++ BitVec.ofBool (cellUnmapped b r 1) ++ BitVec.ofBool (cellUnmapped b r 0)

/-! ### The decimal parse (R154) -/

/-- The digits at the front of a text, and what follows them. -/
def takeDigits : List TextChar → List (Fin 10) × List TextChar
  | .digit d :: rest => (d :: (takeDigits rest).1, (takeDigits rest).2)
  | text => ([], text)

/-- The sign at the front of a text, and what follows it. -/
def takeSign : List TextChar → Bool × List TextChar
  | .minus :: rest => (true, rest)
  | text => (false, text)

/-- The digits after a decimal point at the front of a text; none where there is no point. -/
def takeFraction : List TextChar → List (Fin 10)
  | .point :: rest => (takeDigits rest).1
  | _ => []

/-- Digits read as a decimal integer. -/
def digitsValue (ds : List (Fin 10)) : Nat := ds.foldl (fun a d => 10 * a + d.val) 0

/-- NEG, MANT and EXP before scaling. -/
structure Parsed where
  neg : Bool
  mant : Nat
  exp : Int
  deriving DecidableEq, Repr

/-- The parse of R154: the longest prefix that matches `-?[0-9]*(\.[0-9]*)?`; 0 when it holds no digit. -/
def parseText (text : List TextChar) : Parsed :=
  let signed := takeSign text
  let whole := takeDigits signed.2
  let fraction := takeFraction whole.2
  let digits := whole.1 ++ fraction
  if digits = [] then { neg := false, mant := 0, exp := 0 }
  else { neg := signed.1, mant := digitsValue digits, exp := -(fraction.length : Int) }

/-! ### Scale, unit, AC/DC and modifier -/

/-- PREFIX (R155): the last true flag in the order nano, micro, milli, kilo, Mega; none under dBm or percent. -/
def scaleOf (r : Record) : Scale :=
  if flagDbm r || flagPercent r then .none
  else if flagMega r then .mega
  else if flagKilo r then .kilo
  else if flagMilli r then .milli
  else if flagMicro r then .micro
  else if flagNano r then .nano
  else .none

/-- SC (R155): the power of ten of the prefix (R110). -/
def Scale.power : Scale → Int
  | .none => 0
  | .nano => -9
  | .micro => -6
  | .milli => -3
  | .kilo => 3
  | .mega => 6

/-- `popcount` of a byte (R8). -/
def popcount (v : Byte) : Nat :=
  (v.getLsbD 0).toNat + (v.getLsbD 1).toNat + (v.getLsbD 2).toNat + (v.getLsbD 3).toNat
    + (v.getLsbD 4).toNat + (v.getLsbD 5).toNat + (v.getLsbD 6).toNat + (v.getLsbD 7).toNat

/-- `log2` on 1, 2, 4 and 8, the only values it is applied to (R8, I2). -/
def log2OneHot (v : BitVec 4) : BitVec 4 :=
  if v.getLsbD 3 then 3 else if v.getLsbD 2 then 2 else if v.getLsbD 1 then 1 else 0

/-- The unit index of a switch-position byte and SWINV (R156). -/
def switchUnit (sw : Byte) : BitVec 4 × Bool :=
  let msn : BitVec 4 := sw.extractLsb' 4 4
  let lsn : BitVec 4 := sw.extractLsb' 0 4
  if sw = 0 then (0, false)
  else if popcount sw > 1 then (15, true)
  else if msn ≠ 0 then (5 - log2OneHot msn, false)
  else (4 + log2OneHot lsn, false)

/-- UNIT after the overrides (R157). -/
def unitOf (r : Record) : BitVec 4 :=
  if flagDbm r then 9
  else if flagPercent r then 10
  else (switchUnit r[0]).1

/-- ACDC (R159): `(DC << 1) | AC`. -/
def acdcOf (r : Record) : BitVec 2 := BitVec.ofBool (flagDc r) ++ BitVec.ofBool (flagAc r)

/-- MOD (R160): Delta over PeakToPeak over Max over Min. -/
def modifierOf (r : Record) : Modifier :=
  if flagDelta r then .delta
  else if flagPeakToPeak r then .peakToPeak
  else if flagMax r then .max
  else if flagMin r then .min
  else .none

/-- `RD_TEXT` of a text (R48, R151): character j, and 0 past the length. -/
def textBytes (text : List TextChar) : Vector Byte 12 :=
  Vector.ofFn (fun j : Fin 12 => ((text[j.val]?).map TextChar.ascii).getD 0)

/-- `map_core` (R150), as the Reading registers it is written to (R151). -/
def mapCore (b : BuildParams) (r : Record) : Reading :=
  let text := displayText b r
  let p := parseText text
  { mant := BitVec.ofNat 20 p.mant
    exp := BitVec.ofInt 8 (p.exp + (scaleOf r).power)
    scale := scaleOf r
    unit := unitOf r
    acdc := acdcOf r
    modifier := modifierOf r
    neg := p.neg
    swinv := (switchUnit r[0]).2
    textLen := BitVec.ofNat 4 text.length
    text := textBytes text
    unmapped := unmappedCells b r }

/-- MAP writes every Reading register and sets `READ_VALID`, in one step (R161). -/
@[simps] def State.storeReading (s : State) (r : Reading) : State :=
  { s with rd := r, readValid := true }

/-- `MAP`'s body (R151). -/
def mapCommand (b : BuildParams) (s : State) : State :=
  if s.recValid then (s.storeReading (mapCore b s.record)).setDone
  else raiseError .noRecord 0 s

/-- `MAP` (R151). -/
def execMap (s : State) : Result := .next (whenIdle s (mapCommand Config.build))

end Sys2Proof.Machine
end

