-- ==== Sys2Proof/Machine/Acquisition.lean ====
section
/-! DEFINITION. The acquisition engine (spec/40_frame_reader.md rules R120-R130): the ACQUIRE and SAMPLE commands, the received symbol, the pulse and read phases, and the end of a sample (spec/43_host_commands.md rule R177). -/

namespace Sys2Proof.Machine

/-- `ACQUIRE`'s start (R120). -/
def acquireCommand (s : State) : State := startAcq .acqPulse s.accept

/-- `ACQUIRE` (R120): it completes in a later step. -/
def execAcquire (s : State) : Result := .next (whenIdle s acquireCommand)

/-- `SAMPLE`'s start (R177). -/
def sampleCommand (s : State) : State := startAcq .smpPulse s.accept

/-- `SAMPLE` (R177): it completes in a later step. -/
def execSample (s : State) : Result := .next (whenIdle s sampleCommand)

/-- A valid symbol received from the transport (R95, R126): captured while an acquisition waits, discarded otherwise. -/
def execSymbol (nibble : BitVec 4) (s : State) : Result := .next (capture (symbolOf nibble) s)

/-- The pulse phase's work in a step, after the byte capture (R122). `label` is what `OP` shows in the read phase. -/
def pulsePhase (label : Op) (tick : Bool) (s : State) : State :=
  if s.cfg.pulseMs.toNat ≤ (countTick tick s).tmr.toNat then endPulse label (countTick tick s) else countTick tick s

/-- How a step of the read phase ends (R123). -/
inductive ReadEnd where
  /-- Hold. -/
  | hold
  /-- All 35 bytes arrived (R124). -/
  | frame
  /-- The read timed out (R125). -/
  | timeout
  deriving DecidableEq, Repr

/-- The read phase's test, after the byte capture and the tick (R123): success comes before timeout. -/
def readTest (s : State) : ReadEnd :=
  if s.rxcnt = 35 then .frame
  else if s.cfg.timeoutMs.toNat ≤ s.tmr.toNat then .timeout
  else .hold

/-- All 35 captured bytes become the frame in one step, unvalidated (R124). -/
@[simps] def State.takeFrame (s : State) : State := { s with frame := s.rxbuf }

/-- The end of `sample_body` on a complete frame (R177): decode and map in the same step. The second part is the first invalid symbol, if any. -/
def sampleEnd (b : BuildParams) (s : State) : State × Option (Fin 35) :=
  match decodeCore s.frame with
  | .error i => (s.dropRecord, some i)
  | .ok r => ((s.storeRecord r).storeReading (mapCore b r), none)

/-- ACQUIRE's read phase (R120, R123). -/
def acquireRead (tick : Bool) (s : State) : State :=
  let s := countTick tick s
  match readTest s with
  | .hold => s
  | .frame => s.takeFrame.complete
  | .timeout => raiseError .transportTimeout s.rxcnt s

/-- SAMPLE's read phase and completion (R177). -/
def sampleRead (b : BuildParams) (tick : Bool) (s : State) : State :=
  let s := countTick tick s
  match readTest s with
  | .hold => s
  | .frame =>
    match sampleEnd b s.takeFrame with
    | (s, none) => s.complete
    | (s, some i) => raiseError .framingError (BitVec.ofNat 6 i.val) s
  | .timeout => raiseError .transportTimeout s.rxcnt s

end Sys2Proof.Machine
end

