-- ==== Sys2Proof/Machine/Calibration.lean ====
section
/-! DEFINITION. The calibration commands, and the parts of the calibration state machine that hold at no await point: session_init, the batch's median and spread, ComputeCorrection, the stop decision, the log row and the round's end (spec/44_calibration.md). -/

namespace Sys2Proof.Machine

/-! ### Starting and stopping a run -/

/-- The configuration check of R190: the number of the first failing check. -/
def configCheck (c : Cfg) : Option (BitVec 6) :=
  if c.nSamples.toNat = 0 || c.nSamples.toNat % 2 = 0 || Config.nMax < c.nSamples.toNat then some 1
  else if c.refLow.eqv c.refHigh then some 2
  else if c.settleInitMs = 0 then some 3
  else if c.gainMin.toInt < 1 then some 4
  else if c.gainMax.toInt < c.gainMin.toInt then some 5
  else if c.offsetMax.toInt < c.offsetMin.toInt then some 6
  else none

/-- The session registers as `session_init()` leaves them (R191). -/
def Session.init (c : Cfg) : Session :=
  { Session.reset with settleMs := c.settleInitMs.setWidth 32 }

/-- `session_init()` (R191). -/
@[simps] def sessionInit (s : State) : State :=
  { s with
    ses := Session.init s.cfg
    stopReq := .none
    batchRetry := 0
    roundWrote := false
    roundStop := false
    corrExact := 0
    ppmExact := 0
    sampleBuf := [] }

/-- `OP <- CAL` (R190). -/
@[simps] def State.enterCal (s : State) : State := { s with op := .cal }

/-- `CAL_START`'s body (R190). -/
def calStartCommand (s : State) : State :=
  match configCheck s.cfg with
  | some n => raiseError .configError n s.accept
  | none => gotoState .readCal (sessionInit s.accept).enterCal

/-- `CAL_START` (R190). -/
def execCalStart (s : State) : Result := .next (whenIdle s calStartCommand)

/-- `CAL_STOP_KEEP` (R222). -/
def execCalStopKeep (s : State) : Result := .next (stopCommand .keep s)

/-- `CAL_STOP_ADJUST` (R223). -/
def execCalStopAdjust (s : State) : Result := .next (stopCommand .adjust s)

/-- `CAL_ABORT` (R224). -/
def execCalAbort (s : State) : Result := .next (stopCommand .abort s)

/-! ### The batch (R199-R203) -/

/-- The order of the sort: by value, and by arrival where the values are equal, which is what a stable sort keeps (R200). -/
def Sample.before (a b : Sample) : Bool :=
  if a.value.eqv b.value then a.arrival ≤ b.arrival else a.value.le b.value

/-- Insert a sample at its place in a sorted list. -/
def insertSample (x : Sample) : List Sample → List Sample
  | [] => [x]
  | y :: rest => if x.before y then x :: y :: rest else y :: insertSample x rest

/-- SORTED (R200). -/
def sortSamples : List Sample → List Sample
  | [] => []
  | x :: rest => insertSample x (sortSamples rest)

/-- A measured batch: its median, its lowest and its highest sample. -/
structure Batch where
  low : Sample
  median : Sample
  high : Sample
  deriving DecidableEq, Repr

/-- `MED = SORTED[(N - 1) / 2]` and the two ends (R200, R201); none for a batch of no samples. -/
def batchOf (n : Nat) (buf : List Sample) : Option Batch :=
  match (sortSamples buf).head?, (sortSamples buf)[(n - 1) / 2]?, (sortSamples buf).getLast? with
  | some low, some median, some high => some { low := low, median := median, high := high }
  | _, _, _ => none

/-- `SPREAD > thr`, strictly (R201). -/
def Batch.noisy (b : Batch) (thr : Dec) : Bool := !((b.high.value.sub b.low.value).le thr)

/-- The two measured points. -/
inductive Point where
  | low
  | high
  deriving DecidableEq, Repr

/-- The SET state of a point (R196, R198). -/
def Point.setState : Point → CalState
  | .low => .setLow
  | .high => .setHigh

/-- The MEAS state of a point (R195, R197). -/
def Point.measState : Point → CalState
  | .low => .measLow
  | .high => .measHigh

/-- The state after an accepted batch (R196, R198). -/
def Point.after : Point → CalState
  | .low => .setHigh
  | .high => .compute

/-- The argument of the point's SET_OUTPUT (R195, R197). -/
def Point.arg (p : Point) (c : Cfg) : Word :=
  match p with
  | .low => c.setLowArg
  | .high => c.setHighArg

/-- The point's registers take the median (R196, R198): `((-1)^NEG × MANT, EXP)`. -/
def State.setMeasured (s : State) (p : Point) (m : Sample) : State :=
  match p with
  | .low => { s with ses := { s.ses with mlowMant := BitVec.ofInt 32 (signedMant m.neg m.mant), mlowExp := m.exp } }
  | .high => { s with ses := { s.ses with mhighMant := BitVec.ofInt 32 (signedMant m.neg m.mant), mhighExp := m.exp } }

/-- `CAL_SETTLE_MS <- grow(CAL_SETTLE_MS)` (R202, R204, R217). -/
@[simps] def State.growSettle (s : State) : State := { s with ses := { s.ses with settleMs := grow s.ses.settleMs } }

/-- The counters of a rejected batch (R202). -/
@[simps] def State.countReject (s : State) : State :=
  { s with batchRetry := s.batchRetry + 1, ses := { s.ses with retryCount := satInc s.ses.retryCount } }

/-- A rejected batch (R202): more rejections than `MAX_BATCH_RETRIES` fail the run; else the settle time grows and the set-point is sent again (R196, R198). -/
def rejectBatch (p : Point) (s : State) : State :=
  let s := s.countReject
  if s.cfg.maxBatchRetries.toNat < s.batchRetry.toNat then raiseError .calUnstable 0 s
  else gotoState p.setState s.growSettle

/-- `BATCH_RETRY <- 0` (R203). -/
@[simps] def State.clearBatchRetry (s : State) : State := { s with batchRetry := 0 }

/-- An accepted batch (R203, R196, R198). -/
def acceptBatch (p : Point) (m : Sample) (s : State) : State :=
  gotoState p.after (s.clearBatchRetry.setMeasured p m)

/-- The start of `measure_batch()` (R199): `SAMPLE_IDX <- 0; CAL_ACQ_RUN <- 0`. -/
@[simps] def State.startBatch (s : State) : State :=
  { s with sampleBuf := [], ses := { s.ses with acqRun := 0 } }

/-- A failed sample's counters (R199), each saturating. R227's bound on a batch's failures does not hold of a saturated `CAL_ACQ_RUN`: see `sampleFailed` and log entry 15. -/
@[simps] def State.countAcqFail (s : State) : State :=
  { s with ses := { s.ses with acqFails := satInc s.ses.acqFails, acqRun := satInc s.ses.acqRun } }

/-- A good sample (R199, R177): the Reading just written goes into `SAMPLE_BUF[SAMPLE_IDX]`, and `CAL_ACQ_RUN <- 0`. -/
@[simps] def State.pushSample (s : State) : State :=
  { s with
    sampleBuf := s.sampleBuf ++ [{ neg := s.rd.neg, mant := s.rd.mant, exp := s.rd.exp, arrival := s.sampleIdx }]
    ses := { s.ses with acqRun := 0 } }

/-! ### ComputeCorrection (R205-R214) -/

/-- The results of ComputeCorrection. -/
structure Correction where
  newOffset : Int
  newGain : Int
  corr : Int
  ppm : Int
  deriving DecidableEq, Repr

/-- `slope = (vH - vL) / (rH - rL)` (R206). -/
def slopeOf (c : Cfg) (x : Session) : Ratio :=
  (x.mHigh.sub x.mLow).ratio (c.refHigh.sub c.refLow)

/-- NG (R207, R208): undamped or square-root damped. -/
def newGainOf (c : Cfg) (x : Session) : Int :=
  if c.gainDamp then dampedGain x.gain.toInt (slopeOf c x) else undampedGain x.gain.toInt (slopeOf c x)

/-- `corr = rnd(10^6 × (vL × rH - vH × rL) / (rH - rL))` (R209). -/
def corrOf (c : Cfg) (x : Session) : Int :=
  let q := ((x.mLow.mul c.refHigh).sub (x.mHigh.mul c.refLow)).ratio (c.refHigh.sub c.refLow)
  Ratio.rnd { num := 1000000 * q.num, den := q.den }

/-- `ppm = rnd(10^6 × (NG - G) / G)` (R211). -/
def ppmOf (g ng : Int) : Int := Ratio.rnd { num := 1000000 * (ng - g), den := g }

/-- Does every formula of R206-R211 have a value: `rH` ≠ `rL` and `G` ≥ 1? -/
def correctionDefined (c : Cfg) (x : Session) : Bool :=
  !c.refLow.eqv c.refHigh && (1 : Int) ≤ x.gain.toInt

/-- R205's sequence: the correction, or the index of the `CAL_DIVERGENCE` it raises (R208, R214). -/
def computeCorrection (c : Cfg) (x : Session) : Except (BitVec 6) Correction :=
  let no := x.offset.toInt - corrOf c x
  let ng := newGainOf c x
  if c.gainDamp && (slopeOf c x).neg then .error 1
  else if no < c.offsetMin.toInt || c.offsetMax.toInt < no then .error 2
  else if ng < c.gainMin.toInt || c.gainMax.toInt < ng then .error 3
  else .ok { newOffset := no, newGain := ng, corr := corrOf c x, ppm := ppmOf x.gain.toInt ng }

/-- The results a passing correction stores (R213). -/
@[simps] def State.storeCorrection (s : State) (k : Correction) : State :=
  { s with
    ses := { s.ses with
      newOffset := BitVec.ofInt 32 k.newOffset
      newGain := BitVec.ofInt 32 k.newGain
      offCorr := sat32 k.corr
      ppm := sat32 k.ppm }
    corrExact := k.corr
    ppmExact := k.ppm }

/-- `ROUND_WROTE <- w; ROUND_STOP <- p`. -/
@[simps] def State.setRound (s : State) (wrote stop : Bool) : State :=
  { s with roundWrote := wrote, roundStop := stop }

/-- The stop decision (R215): `STOP_REQ` is read once per round, here. -/
def stopDecision (s : State) : State :=
  match s.stopReq with
  | .none => gotoState .writeCal (s.setRound false false)
  | .adjust => gotoState .writeCal (s.setRound false true)
  | .keep => gotoState .logRound (s.setRound false true)
  | .abort => gotoState .writeCal (s.setRound false s.roundStop)

/-- COMPUTE's body (R205). -/
def computeBody (s : State) : State :=
  match computeCorrection s.cfg s.ses with
  | .error i => raiseError .calDivergence i s
  | .ok k => stopDecision (s.storeCorrection k)

/-! ### The round's end (R217-R219) -/

/-- The log row (R218). -/
def logRowOf (s : State) : LogRow where
  boardId := s.ses.boardId
  refChannel := s.cfg.refChannel
  temperature := s.ses.temp
  offset := s.ses.offset
  gain := s.ses.gain
  ppm := if s.roundWrote then s.ses.ppm else 0

/-- `emit_log(row())` up to its await (R15, R217). -/
@[simps] def emitLog (s : State) : State :=
  { s with logRow := logRowOf s, logValid := true, substep := .lEmit }

/-- The tolerance test of R219, on the unsaturated values (R57). -/
def toleranceMet (s : State) : Bool :=
  s.cfg.tolEn && s.ppmExact.natAbs ≤ s.cfg.ppmTol.toNat && s.corrExact.natAbs ≤ s.cfg.offsetTol.toNat

/-- The round limit or the settle ceiling is reached (R219). -/
def limitReached (s : State) : Bool :=
  (s.cfg.maxRounds ≠ 0 && s.cfg.maxRounds.toNat ≤ s.ses.round.toNat) || s.cfg.settleMaxMs.toNat < s.ses.settleMs.toNat

/-- `terminate_or_repeat()` (R219), the tests in the rule's order. -/
def terminateOrRepeat (s : State) : State :=
  if s.roundStop then gotoState .converged s
  else if toleranceMet s then gotoState .converged s
  else if limitReached s then
    if s.cfg.tolEn then raiseError .calTimeout 0 s else gotoState .converged s
  else gotoState .setLow (s.setRound false false)

/-- The row is accepted: `log_valid <- 0; CAL_ROUND <- min(CAL_ROUND + 1, 2^16 - 1)` (R15, R217). -/
@[simps] def State.endRow (s : State) : State :=
  { s with logValid := false, ses := { s.ses with round := satInc s.ses.round } }

/-- LOG_ROUND after the row is accepted (R217). -/
def finishRound (s : State) : State := terminateOrRepeat s.endRow.growSettle

end Sys2Proof.Machine
end

