-- ==== Sys2Proof/Machine/HostCommands.lean ====
section
/-! DEFINITION. The commands that belong to no single component: NOP, CLEAR and SOFT_RESET (spec/43_host_commands.md rules R176, R178, R179). -/

namespace Sys2Proof.Machine

/-- `NOP` (R176). -/
def execNop (s : State) : Result := .next (whenIdle s State.setDone)

/-- `CLEAR`'s effect after the error is cleared (R178). -/
@[simps] def clearCommand (s : State) : State :=
  let home := if s.calState = .converged || s.calState = .failed || s.calState = .aborted then .idle else s.calState
  { s with reject := false, calState := home, stopReq := .none, done := true }

/-- `CLEAR` (R178). -/
def execClear (s : State) : Result := .next (whenIdle s clearCommand)

/-- `SOFT_RESET` (R179): at any time, busy or idle. -/
def execSoftReset (s : State) : Result := .next (resetBlock s)

end Sys2Proof.Machine
end

