-- ==== Sys2Proof/Machine/Supply.lean ====
section
/-! DEFINITION. The seven supply requests the block emits (spec/30_encoding.md rule R114, spec/00_scope.md rule R13) and what each response writes (spec/44_calibration.md rules R194, R195, R216, R217). -/

namespace Sys2Proof.Machine

/-- `SUP_IDENTIFY` (R114, R194): held for at `T_IDENT`. -/
def execSupIdentify (arg : Word) (s : State) : Result := .next (emitRequest 1 arg .tIdent s)

/-- `SUP_READ_OFFSET` (R114, R194): held for at `T_ROFF`. -/
def execSupReadOffset (arg : Word) (s : State) : Result := .next (emitRequest 2 arg .tRoff s)

/-- `SUP_READ_GAIN` (R114, R194): held for at `T_RGAIN`. -/
def execSupReadGain (arg : Word) (s : State) : Result := .next (emitRequest 3 arg .tRgain s)

/-- `SUP_SET_OUTPUT` (R114, R195, R197): held for at `T_SET`. -/
def execSupSetOutput (arg : Word) (s : State) : Result := .next (emitRequest 4 arg .tSet s)

/-- `SUP_WRITE_OFFSET` (R114, R216): held for at `T_WOFF`. -/
def execSupWriteOffset (arg : Word) (s : State) : Result := .next (emitRequest 5 arg .tWoff s)

/-- `SUP_WRITE_GAIN` (R114, R216): held for at `T_WGAIN`. -/
def execSupWriteGain (arg : Word) (s : State) : Result := .next (emitRequest 6 arg .tWgain s)

/-- `SUP_READ_TEMP` (R114, R217): held for at `T_TEMP`. -/
def execSupReadTemp (arg : Word) (s : State) : Result := .next (emitRequest 7 arg .tTemp s)

/-- What a transaction's step finds (R13). -/
inductive TxnEnd where
  /-- Neither a response nor the timeout: hold. -/
  | hold
  /-- The response, taken before the tick is counted. -/
  | response (data : Word)
  /-- `TMR` has reached `SUP_TIMEOUT_MS`. -/
  | timeout
  deriving DecidableEq, Repr

/-- The response a step presents to the outstanding request; one that arrives with none outstanding is discarded (R13, R279). -/
def takenResponse (rsp : Option Word) (s : State) : Option Word :=
  if s.supPending then rsp else none

/-- A transaction's step (R13): a response wins over the tick and over the timeout of the same step. -/
def txnStep (tick : Bool) (rsp : Option Word) (s : State) : TxnEnd × State :=
  match takenResponse rsp s with
  | some d => (.response d, { s with supPending := false })
  | none =>
    let s := countTick tick s
    if s.cfg.supTimeoutMs.toNat ≤ s.tmr.toNat then (.timeout, s) else (.hold, s)

/-- `CAL_BOARD_ID <- data` (R194). -/
@[simps] def State.setBoardId (s : State) (v : Word) : State := { s with ses := { s.ses with boardId := v } }

/-- `CAL_OFFSET <- v` (R194, R216). -/
@[simps] def State.setOffset (s : State) (v : Word) : State := { s with ses := { s.ses with offset := v } }

/-- `CAL_GAIN <- v` (R194, R216). -/
@[simps] def State.setGain (s : State) (v : Word) : State := { s with ses := { s.ses with gain := v } }

/-- `CAL_TEMP <- data` (R217). -/
@[simps] def State.setTemp (s : State) (v : Word) : State := { s with ses := { s.ses with temp := v } }

end Sys2Proof.Machine
end

