-- ==== Sys2Proof/Machine/Dispatch.lean ====
section
/-! DEFINITION. exec: one arm per instruction, each a direct call of its meaning. -/

namespace Sys2Proof.Machine

def exec (i : Instr) (s : State) : Host.Outcome State Fault Refusal :=
  match i with
  | .nop => Sys2Proof.Machine.execNop s
  | .acquire => Sys2Proof.Machine.execAcquire s
  | .decode => Sys2Proof.Machine.execDecode s
  | .map => Sys2Proof.Machine.execMap s
  | .sample => Sys2Proof.Machine.execSample s
  | .calStart => Sys2Proof.Machine.execCalStart s
  | .calStopKeep => Sys2Proof.Machine.execCalStopKeep s
  | .calStopAdjust => Sys2Proof.Machine.execCalStopAdjust s
  | .calAbort => Sys2Proof.Machine.execCalAbort s
  | .clear => Sys2Proof.Machine.execClear s
  | .softReset => Sys2Proof.Machine.execSoftReset s
  | .symbol nibble => Sys2Proof.Machine.execSymbol nibble s
  | .supIdentify arg => Sys2Proof.Machine.execSupIdentify arg s
  | .supReadOffset arg => Sys2Proof.Machine.execSupReadOffset arg s
  | .supReadGain arg => Sys2Proof.Machine.execSupReadGain arg s
  | .supSetOutput arg => Sys2Proof.Machine.execSupSetOutput arg s
  | .supWriteOffset arg => Sys2Proof.Machine.execSupWriteOffset arg s
  | .supWriteGain arg => Sys2Proof.Machine.execSupWriteGain arg s
  | .supReadTemp arg => Sys2Proof.Machine.execSupReadTemp arg s

end Sys2Proof.Machine
end

