-- ==== Sys2Proof/Machine/Sequencer.lean ====
section
/-! DEFINITION. Phase P1, the sequencer: what one step does at each await point after the received byte is captured (spec/00_scope.md rules R10-R15, spec/40_frame_reader.md rules R122-R125, spec/44_calibration.md rules R193-R219). -/

namespace Sys2Proof.Machine

/-- What the sequencer's step comes to: a state it holds in, a supply request it issues there, or a stop. -/
inductive Advance where
  | next (s : State)
  /-- The state up to the request, and the request (R13, R114). -/
  | issue (i : Instr) (s : State)
  | stop (f : Fault)
  deriving DecidableEq, Repr

/-- A transaction's await point (R13): `op` is the request's code, and `onResponse` is what follows the response. -/
def awaitTxn (op : BitVec 6) (inp : StepInput) (onResponse : Word → State → Advance) (s : State) : Advance :=
  match txnStep inp.tick inp.rsp s with
  | (.hold, s) => .next s
  | (.timeout, s) => .next (raiseError .calSupplyTimeout op s)
  | (.response d, s) => onResponse d s

/-! ### READ_CAL (R194) -/

/-- The bounds check on the constants read from the supply (R194, D57). -/
def checkReadBack (s : State) : State :=
  if s.ses.offset.toInt < s.cfg.offsetMin.toInt || s.cfg.offsetMax.toInt < s.ses.offset.toInt then
    raiseError .calDivergence 4 s
  else if s.ses.gain.toInt < s.cfg.gainMin.toInt || s.cfg.gainMax.toInt < s.ses.gain.toInt then
    raiseError .calDivergence 5 s
  else gotoState .setLow s

/-! ### SET_LOW and SET_HIGH (R195, R197) -/

/-- The start of `wait_ms(CAL_SETTLE_MS)` (R12): `TMR <- 0`, and no hold for 0. -/
def startSettle (p : Point) (s : State) : State :=
  if s.ses.settleMs = 0 then gotoState p.measState { s with tmr := 0 }
  else { s with tmr := 0, substep := .wSettle }

/-- The settle wait's step (R12). -/
def settleStep (p : Point) (tick : Bool) (s : State) : State :=
  let s := countTick tick s
  if s.ses.settleMs.toNat ≤ s.tmr.toNat then gotoState p.measState s else s

/-! ### MEAS_LOW and MEAS_HIGH (R196, R198-R203) -/

/-- The end of a batch (R200-R203): the median and the spread test. -/
def finishBatch (p : Point) (s : State) : Advance :=
  match batchOf s.cfg.nSamples.toNat s.sampleBuf with
  | some b => if b.noisy s.cfg.noiseThr then .next (rejectBatch p s) else .next (acceptBatch p b.median s)
  | none => .stop .emptyBatch

/-- `while SAMPLE_IDX < N` (R199): the next sample starts in this step, or the batch ends. -/
def measureLoop (p : Point) (s : State) : Advance :=
  if s.sampleIdx < s.cfg.nSamples.toNat then .next (startAcq .cal s) else finishBatch p s

/-- A failed sample (R199): counted, and retried at once unless the cap on consecutive failures is passed.
DESIGN CHOICE (log entry 15): with `MAX_ACQ_FAILS` = 65535 R199's saturating count never passes the cap, which R227's bound on the failures of a batch leaves out; the model follows R199, so such a run may retry for ever. -/
def sampleFailed (p : Point) (s : State) : Advance :=
  let s := s.countAcqFail
  if s.cfg.maxAcqFails.toNat < s.ses.acqRun.toNat then .next (raiseError .calAcqFail 0 s) else measureLoop p s

/-- The read phase of a calibration sample (R14, R123, R199). -/
def measureRead (b : BuildParams) (p : Point) (tick : Bool) (s : State) : Advance :=
  let s := countTick tick s
  match readTest s with
  | .hold => .next s
  | .timeout => sampleFailed p s
  | .frame =>
    match sampleEnd b s.takeFrame with
    | (s, some _) => sampleFailed p s
    | (s, none) => measureLoop p s.pushSample

/-! ### The bodies and await points of the running states (R193) -/

/-- READ_CAL (R194). -/
def readCalStep (inp : StepInput) (s : State) : Advance :=
  match s.substep with
  | .entry => .issue (.supIdentify 0) s
  | .tIdent => awaitTxn 1 inp (fun d s => .issue (.supReadOffset 0) (s.setBoardId d)) s
  | .tRoff => awaitTxn 2 inp (fun d s => .issue (.supReadGain 0) (s.setOffset d)) s
  | .tRgain => awaitTxn 3 inp (fun d s => .next (checkReadBack (s.setGain d))) s
  | _ => .stop .noAwaitPoint

/-- SET_LOW and SET_HIGH (R195, R197): the response to SET_OUTPUT is ignored. -/
def setStep (p : Point) (inp : StepInput) (s : State) : Advance :=
  match s.substep with
  | .entry => .issue (.supSetOutput (p.arg s.cfg)) s
  | .tSet => awaitTxn 4 inp (fun _ s => .next (startSettle p s)) s
  | .wSettle => .next (settleStep p inp.tick s)
  | _ => .stop .noAwaitPoint

/-- MEAS_LOW and MEAS_HIGH (R196, R198). -/
def measStep (b : BuildParams) (p : Point) (inp : StepInput) (s : State) : Advance :=
  match s.substep with
  | .entry => measureLoop p s.startBatch
  | .aPulse => .next (pulsePhase .cal inp.tick s)
  | .aRead => measureRead b p inp.tick s
  | _ => .stop .noAwaitPoint

/-- COMPUTE (R205): one step, no await point. -/
def computeStep (s : State) : Advance :=
  match s.substep with
  | .entry => if correctionDefined s.cfg s.ses then .next (computeBody s) else .stop .undefinedCorrection
  | _ => .stop .noAwaitPoint

/-- WRITE_CAL (R216). -/
def writeCalStep (inp : StepInput) (s : State) : Advance :=
  match s.substep with
  | .entry => .issue (.supWriteOffset s.ses.newOffset) s
  | .tWoff => awaitTxn 5 inp (fun _ s => .issue (.supWriteGain s.ses.newGain) (s.setOffset s.ses.newOffset)) s
  | .tWgain => awaitTxn 6 inp (fun _ s => .next (gotoState .logRound ((s.setGain s.ses.newGain).setRound true s.roundStop))) s
  | _ => .stop .noAwaitPoint

/-- LOG_ROUND (R217). -/
def logRoundStep (inp : StepInput) (s : State) : Advance :=
  match s.substep with
  | .entry => .issue (.supReadTemp 0) s
  | .tTemp => awaitTxn 7 inp (fun d s => .next (emitLog (s.setTemp d))) s
  | .lEmit => .next (if s.logValid && inp.logReady then finishRound s else s)
  | _ => .stop .noAwaitPoint

/-- A running calibration's step (R193). -/
def calStep (b : BuildParams) (inp : StepInput) (s : State) : Advance :=
  match s.calState with
  | .readCal => readCalStep inp s
  | .setLow => setStep .low inp s
  | .measLow => measStep b .low inp s
  | .setHigh => setStep .high inp s
  | .measHigh => measStep b .high inp s
  | .compute => computeStep s
  | .writeCal => writeCalStep inp s
  | .logRound => logRoundStep inp s
  | .idle | .converged | .failed | .aborted => .stop .noAwaitPoint

/-- Phase P1 after the byte capture (R10, R26): the step of the operation in progress. An idle block does nothing. -/
def advance (b : BuildParams) (inp : StepInput) (s : State) : Advance :=
  match s.op with
  | .idle => .next s
  | .acqPulse => .next (pulsePhase .acqRead inp.tick s)
  | .acqRead => .next (acquireRead inp.tick s)
  | .smpPulse => .next (pulsePhase .smpRead inp.tick s)
  | .smpRead => .next (sampleRead b inp.tick s)
  | .cal => calStep b inp s

end Sys2Proof.Machine
end

