-- ==== Sys2Proof/Machine/Phases.lean ====
section
/-! DEFINITION. The three phases of a step (spec/00_scope.md rule R10, spec/70_reset_and_hazards.md rule R288): P0 reset, P1 the byte capture and the sequencer, P2 the host access. Each phase decodes the words of its port and runs them by exec. -/

namespace Sys2Proof.Machine

/-- What the environment presents in the next step. -/
def State.input (s : State) : StepInput := s.inputs.headD StepInput.quiet

/-- The start of a step: its input event is used up, a request shown on the supply port in the step before falls (R24), and the host bus has returned nothing yet. -/
@[simps] def State.begin (s : State) : State :=
  { s with inputs := s.inputs.tail, supReqValid := false, hostRdata := none }

/-- The word of a host access's read, if it is one. -/
def hostReadZero : Option HostAccess → Option Word
  | some (.read _) => some 0
  | _ => none

/-- P0 with `rst` = 1 (R21, R268): every register at its reset value, P1 and P2 skipped, a host read returns 0. -/
def phaseP0 (inp : StepInput) (s : State) : State :=
  { resetBlock s with hostRdata := hostReadZero inp.host }

/-- The byte capture of P1 (R126, R288): a valid symbol runs as the instruction it decodes to; any other byte is captured as it is, unvalidated (R124). -/
def receive (rx : Option Byte) (s : State) : Result :=
  match rx with
  | none => .next s
  | some b =>
    match decode (.transport b) with
    | .ok i => exec i s
    | .error _ => .next (capture b s)

/-- The sequencer's part of P1: what it issues to the supply runs by exec (R114). -/
def runAdvance (a : Advance) : Result :=
  match a with
  | .next s => .next s
  | .issue i s => exec i s
  | .stop f => .fault f

/-- Phase P1 (R288): byte capture, then the sequencer. -/
def phaseP1 (inp : StepInput) (s : State) : Result :=
  andThen (receive inp.rx s) (fun s => runAdvance (advance Config.build inp s))

/-- A command issue (R175): the word's instruction runs by exec; an illegal word is R180's. -/
def commandIssue (v : Word) (s : State) : Result :=
  match decode (.command v) with
  | .ok i => exec i s
  | .error _ => .next (illegalCommand s)

/-- `MemWrite(off, 4, v)` (R72): an unmapped offset ignores the write. -/
def memWrite (off : BitVec 12) (v : Word) (s : State) : Result :=
  match regAt off with
  | some .cmd => commandIssue v s
  | some r => .next (writeReg r v s)
  | none => .next s

/-- Phase P2 (R71, R72): the host access, on the state P1 left. -/
def phaseP2 (inp : StepInput) (s : State) : Result :=
  match inp.host with
  | none => .next s
  | some (.read off) => .next { s with hostRdata := some (memRead Config.build s off) }
  | some (.write off v) => memWrite off v s

/-- One step (R10): P0, P1, P2, in that order. -/
def stepBody (s : State) : Result :=
  let inp := s.input
  if inp.rst then .next (phaseP0 inp s.begin)
  else andThen (phaseP1 inp s.begin) (phaseP2 inp)

/-! ### Presenting one word to the next step -/

/-- Change what the environment presents in the next step. -/
@[simps] def State.withInput (s : State) (f : StepInput → StepInput) : State :=
  { s with inputs := f s.input :: s.inputs.tail }

/-- Put the sequencer where it issues the supply request `op` in the next step (R193, R228): the state's ENTRY, or the await point before it with its response present.
`arg` is stored in the register the request takes it from. The response repeats what the register it writes already holds. -/
def State.withSupplyWord (s : State) (op : BitVec 4) (arg : Word) : State :=
  let run (c : CalState) (w : Await) (pending : Bool) (s : State) : State :=
    { s with op := .cal, calState := c, substep := w, supPending := pending }
  if op = 1 then run .readCal .entry false s
  else if op = 2 then (run .readCal .tIdent true s).withInput (fun i => { i with rst := false, rsp := some s.ses.boardId })
  else if op = 3 then (run .readCal .tRoff true s).withInput (fun i => { i with rst := false, rsp := some s.ses.offset })
  else if op = 4 then run .setLow .entry false { s with cfg := { s.cfg with setLowArg := arg } }
  else if op = 5 then run .writeCal .entry false { s with ses := { s.ses with newOffset := arg } }
  else if op = 6 then
    (run .writeCal .tWoff true { s with ses := { s.ses with newGain := arg } }).withInput
      (fun i => { i with rst := false, rsp := some 0 })
  else if op = 7 then run .logRound .entry false s
  else s

/-- The word of a port, presented where the next step takes its words from: the host's write to `CMD`, the transport's byte, or the sequencer's next supply request.
A byte is taken only while an acquisition waits (R126), so a block that waits in none is put at the start of ACQUIRE's. -/
def State.withPortWord (s : State) (p : PortWord) : State :=
  match p with
  | .command v => s.withInput (fun i => { i with rst := false, host := some (.write 0x000 v) })
  | .transport b => (if s.acquiring then s else startAcq .acqPulse s).withInput (fun i => { i with rst := false, rx := some b })
  | .supply op arg => s.withSupplyWord op arg

end Sys2Proof.Machine
end

