-- ==== Sys2Proof/Machine/Step.lean ====
section
/-! DEFINITION. One step of the block, and the word the next step runs. -/

namespace Sys2Proof.Machine

/-- One step (spec/00_scope.md rule R10). -/
def step (s : State) : Host.Outcome State Fault Refusal := stepBody s

/-- The state with a word of spec/opcode_table.json presented to the next step, on the port that carries it. -/
def State.withFetchWord (s : State) (nbits w : Nat) : State := s.withPortWord (portOfTableWord nbits w)

end Sys2Proof.Machine
end

