-- ==== Sys2Proof/Safety.lean ====
section
/-! DEFINITION. What counts as a state the block can hold: the invariant the spec's rules add up to (spec/10_state.md rules R26-R28, R31; spec/40_frame_reader.md rule R128; spec/44_calibration.md rules R190, R194, R202, R214). -/

namespace Sys2Proof.Machine

/-- The await points of a supply transaction (R193). -/
def Await.isTxn : Await → Bool
  | .tIdent | .tRoff | .tRgain | .tSet | .tWoff | .tWgain | .tTemp => true
  | .none | .entry | .wSettle | .aPulse | .aRead | .lEmit => false

/-- The await points of a running state (R193). -/
def CalState.awaits : CalState → List Await
  | .readCal => [.entry, .tIdent, .tRoff, .tRgain]
  | .setLow | .setHigh => [.entry, .tSet, .wSettle]
  | .measLow | .measHigh => [.entry, .aPulse, .aRead]
  | .compute => [.entry]
  | .writeCal => [.entry, .tWoff, .tWgain]
  | .logRound => [.entry, .tTemp, .lEmit]
  | .idle | .converged | .failed | .aborted => []

/-- The triples (`OP`, `CAL_STATE`, `SUBSTEP`) the block holds: `OP` = CAL iff `CAL_STATE` is running (R27), and only the await points of R193 exist (R28). -/
def legalPoint (op : Op) (c : CalState) (w : Await) : Bool :=
  match op with
  | .idle => !c.running && w = .none
  | .acqPulse | .smpPulse => !c.running && w = .aPulse
  | .acqRead | .smpRead => !c.running && w = .aRead
  | .cal => c.awaits.contains w

/-- The supply's constants have been read and checked (R194): every running state after READ_CAL. -/
def CalState.constantsRead : CalState → Bool
  | .setLow | .measLow | .setHigh | .measHigh | .compute | .writeCal | .logRound => true
  | .idle | .readCal | .converged | .failed | .aborted => false

/-- An offset within OFFSET_MIN..OFFSET_MAX, compared signed (R42, R214). -/
def Cfg.offsetInBounds (c : Cfg) (v : Word) : Bool :=
  c.offsetMin.toInt ≤ v.toInt && v.toInt ≤ c.offsetMax.toInt

/-- A gain within GAIN_MIN..GAIN_MAX, compared signed (R42, R214). -/
def Cfg.gainInBounds (c : Cfg) (v : Word) : Bool :=
  c.gainMin.toInt ≤ v.toInt && v.toInt ≤ c.gainMax.toInt

/-- The invariant: what every rule together keeps true of the block's state. -/
structure BlockInv (s : State) : Prop where
  /-- Only the named await points, and `OP` = CAL iff a run is on (R27, R28, R193). -/
  point : legalPoint s.op s.calState s.substep = true
  /-- `tx_en` = 1 exactly while an acquisition waits at `pulse_end` (R128). -/
  txEn : s.txEn = true ↔ s.substep = .aPulse
  /-- A request is outstanding exactly at a transaction's await point (R13). -/
  pending : s.supPending = s.substep.isTxn
  /-- A row is offered exactly at `L_EMIT` (R15). -/
  logValid : s.logValid = true ↔ s.substep = .lEmit
  /-- `RXCNT` is 0..35 (R33). -/
  rxcnt : s.rxcnt.toNat ≤ 35
  /-- While busy, the command has neither completed nor failed (R175). -/
  busy : s.op ≠ .idle → s.done = false ∧ s.errCode = .none
  /-- A running calibration passed R190's checks, and its configuration cannot have changed (R29, R191). -/
  config : s.op = .cal → configCheck s.cfg = none
  /-- The settle time of a run is at least 1 (R195). -/
  settle : s.op = .cal → s.ses.settleMs ≠ 0
  /-- `BATCH_RETRY` is 0..256 (R32), and within MAX_BATCH_RETRIES during a run (R202). -/
  retry : s.batchRetry.toNat ≤ 256 ∧ (s.op = .cal → s.batchRetry.toNat ≤ s.cfg.maxBatchRetries.toNat)
  /-- The supply's constants as the block knows them are in bounds (R194, R214, R216). -/
  constants : s.op = .cal → s.calState.constantsRead = true →
    s.cfg.offsetInBounds s.ses.offset = true ∧ s.cfg.gainInBounds s.ses.gain = true
  /-- A correction about to be written is in bounds (R214). -/
  correction : s.op = .cal → s.calState = .writeCal →
    s.cfg.offsetInBounds s.ses.newOffset = true ∧ s.cfg.gainInBounds s.ses.newGain = true
  /-- A batch in progress has fewer than N samples (R199). -/
  batch : s.op = .cal → s.substep = .aPulse ∨ s.substep = .aRead → s.sampleIdx < s.cfg.nSamples.toNat
  /-- `READ_VALID`: the `RD_*` registers hold the MAP of the current `REC`, which is valid (R31). -/
  reading : s.readValid = true → s.recValid = true ∧ s.rd = mapCore Config.build s.record
  /-- Supply ops 0 and 8-15 are never emitted (R114). -/
  supplyOp : s.supReqValid = true → 1 ≤ s.supReqOp.toNat ∧ s.supReqOp.toNat ≤ 7
  /-- At most N_MAX samples are held, and the sample at entry i has arrival index i (R28, R56, R199). -/
  samples : s.sampleIdx ≤ Config.nMax ∧ s.sampleBuf.map Sample.arrival = List.range s.sampleIdx

/-! ### The spec's exact numbers (spec/00_scope.md rule R8) -/

/-- `dec(m, e)` as a rational (R8). -/
def Dec.toRat (d : Dec) : ℚ := (d.mant : ℚ) * (10 : ℚ) ^ d.exp

/-- The quotient a pair stands for. -/
def Ratio.toRat (q : Ratio) : ℚ := (q.num : ℚ) / (q.den : ℚ)

/-- `rnd(x)` for a rational x: the nearest integer, ties away from zero (R8). -/
def rndRat (x : ℚ) : ℤ := if 0 ≤ x then ⌊x + 1 / 2⌋ else ⌈x - 1 / 2⌉

/-- The integer R208 names for `x = G² × slope`: 0 when `4x < 1`, else the largest n ≥ 1 with `(2n - 1)² ≤ 4x`. -/
def IsDampedGain (x : ℚ) (n : ℤ) : Prop :=
  (4 * x < 1 ∧ n = 0) ∨ (1 ≤ 4 * x ∧ IsGreatest { k : ℤ | 1 ≤ k ∧ (2 * (k : ℚ) - 1) ^ 2 ≤ 4 * x } n)

/-- `slope` over the rationals (R206). -/
def slopeRat (c : Cfg) (x : Session) : ℚ :=
  (x.mHigh.toRat - x.mLow.toRat) / (c.refHigh.toRat - c.refLow.toRat)

/-- `NG = new_gain(G, slope)` over the rationals (R207, R208). -/
def IsNewGain (c : Cfg) (x : Session) (ng : ℤ) : Prop :=
  if c.gainDamp then IsDampedGain ((x.gain.toInt : ℚ) ^ 2 * slopeRat c x) ng
  else ng = rndRat ((x.gain.toInt : ℚ) * slopeRat c x)

/-- `corr` over the rationals (R209). -/
def corrRat (c : Cfg) (x : Session) : ℤ :=
  rndRat (10 ^ 6 * (x.mLow.toRat * c.refHigh.toRat - x.mHigh.toRat * c.refLow.toRat) / (c.refHigh.toRat - c.refLow.toRat))

/-- `ppm` over the rationals (R211). -/
def ppmRat (g ng : ℤ) : ℤ := rndRat (10 ^ 6 * ((ng : ℚ) - (g : ℚ)) / (g : ℚ))

/-! ### The checks and tables the statements name -/

/-- CAL_START's check n fails (R190), the references compared as rationals. -/
def Cfg.startCheckFails (c : Cfg) : Nat → Prop
  | 1 => c.nSamples.toNat = 0 ∨ c.nSamples.toNat % 2 = 0 ∨ 2049 < c.nSamples.toNat
  | 2 => c.refLow.toRat = c.refHigh.toRat
  | 3 => c.settleInitMs = 0
  | 4 => c.gainMin.toInt < 1
  | 5 => c.gainMax.toInt < c.gainMin.toInt
  | 6 => c.offsetMax.toInt < c.offsetMin.toInt
  | _ => False

/-- The timer after the tick of a step is counted (R127, R251). -/
def State.ticked (s : State) (tick : Bool) : Word :=
  if tick then (if s.tmr = BitVec.allOnes 32 then s.tmr else s.tmr + 1) else s.tmr

/-- What `raise E(i)` leaves of a running calibration (R220, R243). -/
def State.failedWith (s : State) (e : ErrCode) (i : BitVec 6) : State :=
  { s with
    errCode := e
    errIndex := i
    calState := .failed
    txEn := false
    logValid := false
    supPending := false
    op := .idle
    substep := .none
    done := true }

/-- A symbol is valid (R95). -/
def symbolOk (b : Byte) : Prop := b &&& 0xC3 = 0x43

/-- Record byte i of a frame of valid symbols, by R98's shifts. -/
def recordByte (f : Frame) (i : Fin 17) : Byte :=
  let b : Byte := (((f[2 * i.val + 1] >>> 2) &&& 0x0F) <<< 4) ||| ((f[2 * i.val + 2] >>> 2) &&& 0x0F)
  if i.val = 0 then ~~~b else b

/-- A configuration register of the map: its offset, the bits it stores, and whether it reads sign-extended (R29, R34-R43, R74). -/
structure CfgLayout where
  offset : Nat
  mask : Word
  signed : Bool

/-- The configuration registers of R29 with the fields of R34-R43. -/
def cfgLayout : List CfgLayout :=
  [⟨0x020, 0xFFFF, false⟩, ⟨0x024, 0xFFFF, false⟩, ⟨0x028, 0xFFF, false⟩, ⟨0x02C, 0xFFFFFFFF, false⟩,
    ⟨0x030, 0xFF, true⟩, ⟨0x034, 0xFFFFFF, false⟩, ⟨0x038, 0xFFFFFF, false⟩, ⟨0x03C, 0xFF, false⟩,
    ⟨0x040, 0xFFFF, false⟩, ⟨0x044, 0xFFFF, false⟩, ⟨0x048, 0xFFFF, false⟩, ⟨0x04C, 0xFFFFFFFF, false⟩,
    ⟨0x050, 0xFF, true⟩, ⟨0x054, 0xFFFFFFFF, false⟩, ⟨0x058, 0xFF, true⟩, ⟨0x05C, 0xFFFFFFFF, false⟩,
    ⟨0x060, 0xFFFFFFFF, false⟩, ⟨0x064, 0xFF03, false⟩, ⟨0x068, 0xFFFFFFFF, false⟩, ⟨0x06C, 0xFFFFFFFF, false⟩,
    ⟨0x070, 0xFFFFFFFF, false⟩, ⟨0x074, 0xFFFFFFFF, false⟩, ⟨0x078, 0xFFFFFFFF, false⟩, ⟨0x07C, 0xFFFFFFFF, false⟩]

/-- What a configuration register reads as after v was stored in it (R74, R182). -/
def CfgLayout.readBack (e : CfgLayout) (v : Word) : Word :=
  if e.signed then (v.setWidth 8).signExtend 32 else v &&& e.mask

/-- The reset values of R29's table that are not 0: offset and value. -/
def resetTable : List (Nat × Word) :=
  [(0x020, 10), (0x024, 3265), (0x028, 17), (0x034, 100), (0x038, 20000), (0x03C, 16), (0x044, 16), (0x048, 1000),
    (0x068, 0x80000000), (0x06C, 0x7FFFFFFF), (0x070, 1), (0x074, 0x7FFFFFFF)]

/-- What the registers of R29's table that hold one number read as: offset and value. Unsigned fields are zero-extended and signed 8-bit fields sign-extended (R74); `CMD` reads 0 (R30). The packed registers, the byte arrays and the views of the Record are not in it. -/
def readTable (s : State) : List (Nat × Word) :=
  [(0x000, 0), (0x00C, s.rxcnt.setWidth 32), (0x010, s.tmr)] ++
  [(0x020, s.cfg.pulseMs.setWidth 32), (0x024, s.cfg.timeoutMs.setWidth 32), (0x028, s.cfg.nSamples.setWidth 32),
    (0x02C, s.cfg.noiseThrMant), (0x030, s.cfg.noiseThrExp.signExtend 32), (0x034, s.cfg.settleInitMs.setWidth 32),
    (0x038, s.cfg.settleMaxMs.setWidth 32), (0x03C, s.cfg.maxBatchRetries.setWidth 32), (0x040, s.cfg.maxRounds.setWidth 32),
    (0x044, s.cfg.maxAcqFails.setWidth 32), (0x048, s.cfg.supTimeoutMs.setWidth 32)] ++
  [(0x04C, s.cfg.refLowMant), (0x050, s.cfg.refLowExp.signExtend 32), (0x054, s.cfg.refHighMant),
    (0x058, s.cfg.refHighExp.signExtend 32), (0x05C, s.cfg.setLowArg), (0x060, s.cfg.setHighArg), (0x068, s.cfg.offsetMin),
    (0x06C, s.cfg.offsetMax), (0x070, s.cfg.gainMin), (0x074, s.cfg.gainMax), (0x078, s.cfg.ppmTol), (0x07C, s.cfg.offsetTol)] ++
  [(0x300, s.rd.mant.setWidth 32), (0x304, s.rd.exp.signExtend 32), (0x30C, s.rd.textLen.setWidth 32),
    (0x340, s.rd.unmapped.setWidth 32)] ++
  [(0x400, s.ses.offset), (0x404, s.ses.gain), (0x408, s.ses.mlowMant), (0x40C, s.ses.mlowExp.signExtend 32),
    (0x410, s.ses.mhighMant), (0x414, s.ses.mhighExp.signExtend 32), (0x418, s.ses.settleMs), (0x41C, s.ses.retryCount),
    (0x420, s.ses.round.setWidth 32), (0x424, s.ses.boardId), (0x428, s.ses.temp), (0x42C, s.ses.ppm), (0x430, s.ses.offCorr),
    (0x434, s.ses.acqFails), (0x438, s.ses.acqRun.setWidth 32), (0x43C, s.ses.newOffset), (0x440, s.ses.newGain)]

/-- What follows the response `d` at each transaction's await point, from the state in which the response was taken (R194, R195, R216, R217): READ_CAL's next read or its bounds check, the settle wait, WRITE_CAL's next write or the round's end, the offered log row. At the other await points no response is awaited, and nothing follows. -/
def afterResponse (a : Await) (d : Word) (s : State) : Advance :=
  match a with
  | .tIdent => .issue (.supReadOffset 0) { s with ses := { s.ses with boardId := d } }
  | .tRoff => .issue (.supReadGain 0) { s with ses := { s.ses with offset := d } }
  | .tRgain => .next (checkReadBack { s with ses := { s.ses with gain := d } })
  | .tSet => .next { s with tmr := 0, substep := .wSettle }
  | .tWoff => .issue (.supWriteGain s.ses.newGain) { s with ses := { s.ses with offset := s.ses.newOffset } }
  | .tWgain => .next (gotoState .logRound { s with ses := { s.ses with gain := s.ses.newGain }, roundWrote := true })
  | .tTemp => .next { s with
      ses := { s.ses with temp := d }
      logRow :=
        { boardId := s.ses.boardId, refChannel := s.cfg.refChannel, temperature := d, offset := s.ses.offset
          gain := s.ses.gain, ppm := if s.roundWrote then s.ses.ppm else 0 }
      logValid := true
      substep := .lEmit }
  | .none | .entry | .wSettle | .aPulse | .aRead | .lEmit => .next s

/-- A failed calibration sample's counters (R199): both counted, saturating. -/
def Session.acqFailed (x : Session) : Session :=
  { x with
    acqFails := if x.acqFails = BitVec.allOnes 32 then x.acqFails else x.acqFails + 1
    acqRun := if x.acqRun = BitVec.allOnes 16 then x.acqRun else x.acqRun + 1 }

/-- A calibration sample starts (R121, R199): no byte held, the line asserted, the timer at 0. -/
def State.sampleStarted (s : State) : State := { s with rxcnt := 0, txEn := true, tmr := 0, substep := .aPulse }

/-- The edges of the calibration state machine: the states a step's P1 can lead to (R192-R198, R205, R215-R220). -/
def CalState.edges : CalState → List CalState
  | .readCal => [.readCal, .setLow, .failed, .aborted]
  | .setLow => [.setLow, .measLow, .failed, .aborted]
  | .measLow => [.measLow, .setLow, .setHigh, .failed, .aborted]
  | .setHigh => [.setHigh, .measHigh, .failed, .aborted]
  | .measHigh => [.measHigh, .setHigh, .compute, .failed, .aborted]
  | .compute => [.writeCal, .logRound, .failed, .aborted]
  | .writeCal => [.writeCal, .logRound, .failed, .aborted]
  | .logRound => [.logRound, .setLow, .converged, .failed, .aborted]
  | .idle => [.idle]
  | .converged => [.converged]
  | .failed => [.failed]
  | .aborted => [.aborted]

/-- A text R154's pattern `-?[0-9]*(\.[0-9]*)?` matches: an optional sign, digits, and optionally a point and more digits. -/
def IsNumeral (text : List TextChar) (neg : Bool) (whole fraction : List (Fin 10)) (point : Bool) : Prop :=
  text = (if neg then [TextChar.minus] else []) ++ whole.map TextChar.digit
    ++ (if point then TextChar.point :: fraction.map TextChar.digit else []) ∧ (point = false → fraction = [])

/-- The Record bits the mapper reads: every bit but those R162 names. A mask for each byte. -/
def mapperMask : Vector Byte 17 :=
  #v[0xFF, 0xC7, 0x4C, 0xFF, 0xFF, 0xFF, 0xFF, 0xFF, 0xFF, 0x00, 0x00, 0x00, 0x00, 0x00, 0x00, 0x14, 0x0E]

end Sys2Proof.Machine
end

