-- ==== Sys2Proof/Certificates/Slice0/Obligations.lean ====
section
/-! DEFINITION. The statements for the provers, rule by rule of spec/. -/

open Sys2Proof Sys2Proof.Machine

/-! ### Encodings (spec/30_encoding.md) -/

/-- Decode and encode agree on every well-formed instruction of the three ports, with every operand value the encodings admit (R90, R95, R96, R114). -/
def Obligations.DecodeEncode : Prop :=
  ∀ i : Instr, i.WellFormed → decode (encode i) = .ok i

/-- Every word that decodes is the encoding of the well-formed instruction it decodes to: no two words of a port share an instruction, and no bit is dropped (R91, R93, R96, R114). -/
def Obligations.EncodeDecode : Prop :=
  ∀ (p : PortWord) (i : Instr), decode p = .ok i → encode i = p ∧ i.WellFormed

/-- R91: a command word is legal iff `RSV` = 0 and `OPC` is one of the eleven values of R92; a legal word is one of the eleven commands, and the opcode alone tells which. -/
def Obligations.CommandLegal : Prop :=
  (∀ v : Word, (∃ i, decode (.command v) = .ok i) ↔
    v.extractLsb' 8 24 = 0 ∧
      v.extractLsb' 0 8 ∈ ([0x00, 0x01, 0x02, 0x03, 0x04, 0x10, 0x11, 0x12, 0x13, 0x1E, 0x1F] : List Byte)) ∧
  (∀ (v : Word) (i : Instr), decode (.command v) = .ok i →
    i ∈ [Instr.nop, .acquire, .decode, .map, .sample, .calStart, .calStopKeep, .calStopAdjust, .calAbort, .clear, .softReset]) ∧
  (∀ (v w : Word) (i j : Instr), decode (.command v) = .ok i → decode (.command w) = .ok j →
    v.extractLsb' 0 8 = w.extractLsb' 0 8 → i = j)

/-- Sanity: words written out from R92, R96 and R114 decode to what they stand for. -/
def Obligations.DecodedWords : Prop :=
  decode (.command 0x00000000) = .ok .nop ∧ decode (.command 0x00000001) = .ok .acquire ∧
  decode (.command 0x00000002) = .ok .decode ∧ decode (.command 0x00000003) = .ok .map ∧
  decode (.command 0x00000004) = .ok .sample ∧ decode (.command 0x00000010) = .ok .calStart ∧
  decode (.command 0x00000011) = .ok .calStopKeep ∧ decode (.command 0x00000012) = .ok .calStopAdjust ∧
  decode (.command 0x00000013) = .ok .calAbort ∧ decode (.command 0x0000001E) = .ok .clear ∧
  decode (.command 0x0000001F) = .ok .softReset ∧ decode (.transport 0x43) = .ok (.symbol 0) ∧
  decode (.transport 0x6B) = .ok (.symbol 0xA) ∧ decode (.supply 4 0xFFFFFF38) = .ok (.supSetOutput 0xFFFFFF38) ∧
  decode (.command 0x0000011F) = .error .reservedBits ∧ decode (.command 0x00000005) = .error .unassignedOpcode

/-- R96: exactly 16 of the 256 byte values are valid symbols, `sym(n) = 0x43 | (n << 2)`, in the order of the rule's table. -/
def Obligations.SymbolCodes : Prop :=
  ((List.finRange 256).filter (fun k => (decode (.transport (BitVec.ofFin k))).toOption.isSome)).map BitVec.ofFin
    = ([0x43, 0x47, 0x4B, 0x4F, 0x53, 0x57, 0x5B, 0x5F, 0x63, 0x67, 0x6B, 0x6F, 0x73, 0x77, 0x7B, 0x7F] : List Byte) ∧
  ∀ n : BitVec 4, encode (.symbol n) = .transport (0x43 ||| (n.setWidth 8 <<< 2)) ∧
    decode (.transport (0x43 ||| (n.setWidth 8 <<< 2))) = .ok (.symbol n)

/-! ### The step runs what it decodes (spec/00_scope.md rule R10) -/

/-- The phases of a step with `rst` = 0, and the instruction each port's word runs.
Phases (R10, R288): the step begins with its event used up and the one-step outputs cleared; P1 takes the received byte and then advances the sequencer, whose supply request, if it issues one, is run; P2 is the host access on what P1 left: none, or a write by `memWrite`, which at `CMD` (offsets 0 to 3, whose low bits are ignored) issues the command.
Instructions: a written command runs in P2 on the state P1 left; a received symbol runs at the start of P1; an issued request runs at the end of P1 and is a well-formed supply instruction. Which part of a step is an instruction's is the model's choice (log entries 1 and 10). -/
def Obligations.StepRunsDecoded : Prop :=
  (∀ s : State, s.begin = { s with inputs := s.inputs.tail, supReqValid := false, hostRdata := none }) ∧
  (∀ s t u : State, s.input.rst = false → receive s.input.rx s.begin = .next t →
    (advance Config.build s.input t = .next u →
      phaseP1 s.input s.begin = .next u ∧ step s = phaseP2 s.input u) ∧
    (∀ i, advance Config.build s.input t = .issue i u →
      phaseP1 s.input s.begin = exec i u ∧ ∀ w, exec i u = .next w → step s = phaseP2 s.input w)) ∧
  (∀ (inp : StepInput) (s : State), (inp.host = none → phaseP2 inp s = .next s) ∧
    ∀ off v, inp.host = some (.write off v) → phaseP2 inp s = memWrite off v s ∧
      (off.toNat < 4 → phaseP2 inp s = commandIssue v s)) ∧
  (∀ (s t : State) (off : BitVec 12) (v : Word) (i : Instr), s.input.rst = false → off.toNat < 4 →
    s.input.host = some (.write off v) → decode (.command v) = .ok i → phaseP1 s.input s.begin = .next t →
    step s = exec i t) ∧
  (∀ (s t : State) (b : Byte) (i : Instr), s.input.rst = false → s.input.rx = some b →
    decode (.transport b) = .ok i → exec i s.begin = .next t →
    step s = andThen (runAdvance (advance Config.build s.input t)) (phaseP2 s.input)) ∧
  (∀ (s t u : State) (i : Instr), s.input.rst = false → receive s.input.rx s.begin = .next t →
    advance Config.build s.input t = .issue i u →
    (∃ op arg, encode i = .supply op arg ∧ decode (.supply op arg) = .ok i) ∧
    step s = andThen (exec i u) (phaseP2 s.input))

/-! ### Host commands (spec/43_host_commands.md) -/

/-- R176: `NOP` is `CMD` = 0; while idle it clears the error and sets `DONE`, and nothing else changes; while busy it is rejected. -/
def Obligations.NopEffect : Prop :=
  decode (.command 0x00000000) = .ok .nop ∧
  ∀ s : State,
    (s.op = .idle → exec .nop s = .next { s with errCode := .none, errIndex := 0, done := true }) ∧
    (s.op ≠ .idle → exec .nop s = .next { s with reject := true })

/-- R178: `CLEAR` is `CMD` = 0x1E; while idle it clears the error, `REJECT` and `STOP_REQ`, takes a terminal `CAL_STATE` to IDLE, sets `DONE`, and nothing else changes; while busy it is rejected. -/
def Obligations.ClearEffect : Prop :=
  decode (.command 0x0000001E) = .ok .clear ∧
  ∀ s : State,
    (s.op = .idle → exec .clear s = .next { s with
      errCode := .none
      errIndex := 0
      reject := false
      calState := if s.calState ∈ [CalState.converged, .failed, .aborted] then .idle else s.calState
      stopReq := .none
      done := true }) ∧
    (s.op ≠ .idle → exec .clear s = .next { s with reject := true })

/-- R179: `SOFT_RESET` is `CMD` = 0x1F; busy or idle, it puts every piece of the block's state at its reset value (the environment's inputs to come are the model's own list, log entry 1, and are not the block's), and a response to an abandoned request is then discarded. -/
def Obligations.SoftResetEffect : Prop :=
  decode (.command 0x0000001F) = .ok .softReset ∧
  ∀ s : State, exec .softReset s = .next { State.reset with inputs := s.inputs } ∧
    ∀ rsp, takenResponse rsp { State.reset with inputs := s.inputs } = none

/-- `ACQUIRE` and `SAMPLE` while idle, a calibration's next sample, and the ENTRY step of MEAS_LOW and MEAS_HIGH start the acquisition procedure of R121; the commands also clear the error and `DONE` (R175), and are rejected while busy; the ENTRY step also starts the batch (R199: `SAMPLE_IDX` and `CAL_ACQ_RUN` to 0). Nothing else changes. The await point's name and the empty list are the model's choices (log entries 7 and 5). -/
def Obligations.AcquisitionStart : Prop :=
  ∀ s : State,
    (s.op = .idle → exec .acquire s = .next { s with
      errCode := .none, errIndex := 0, done := false
      rxcnt := 0, txEn := true, tmr := 0, op := .acqPulse, substep := .aPulse }) ∧
    (s.op = .idle → exec .sample s = .next { s with
      errCode := .none, errIndex := 0, done := false
      rxcnt := 0, txEn := true, tmr := 0, op := .smpPulse, substep := .aPulse }) ∧
    (s.op ≠ .idle → exec .acquire s = .next { s with reject := true } ∧ exec .sample s = .next { s with reject := true }) ∧
    (∀ p : Point, s.op = .cal → s.sampleBuf.length < s.cfg.nSamples.toNat →
      measureLoop p s = .next { s with rxcnt := 0, txEn := true, tmr := 0, op := .cal, substep := .aPulse }) ∧
    (∀ (b : BuildParams) (inp : StepInput), BlockInv s → s.op = .cal → s.calState = .measLow ∨ s.calState = .measHigh →
      s.substep = .entry → advance b inp s = .next { s with
        sampleBuf := [], ses := { s.ses with acqRun := 0 }
        rxcnt := 0, txEn := true, tmr := 0, substep := .aPulse })

/-- R135 with R98's record: `DECODE` while idle. A frame of 35 valid symbols becomes the Record of R98, valid, with the Reading no longer valid; otherwise the lowest invalid index is reported and `REC` keeps its bytes. Nothing else changes; while busy it is rejected. -/
def Obligations.DecodeEffect : Prop :=
  decode (.command 0x00000002) = .ok .decode ∧
  ∀ s : State, BlockInv s →
    (s.op = .idle → (∀ i : Fin 35, symbolOk s.frame[i]) → exec .decode s = .next { s with
      errCode := .none
      errIndex := 0
      record := Vector.ofFn (recordByte s.frame)
      recValid := true
      readValid := false
      done := true }) ∧
    (∀ i : Fin 35, s.op = .idle → ¬ symbolOk s.frame[i] → (∀ j : Fin 35, j < i → symbolOk s.frame[j]) →
      exec .decode s = .next { s with
        errCode := .framingError
        errIndex := BitVec.ofNat 6 i.val
        recValid := false
        readValid := false
        done := true }) ∧
    (s.op ≠ .idle → exec .decode s = .next { s with reject := true })

/-- `MAP` while idle (R151): with a valid Record every `RD_*` register takes the Reading of `REC` and becomes valid; without one, `NO_RECORD`. Nothing else changes; while busy it is rejected. -/
def Obligations.MapEffect : Prop :=
  decode (.command 0x00000003) = .ok .map ∧
  ∀ s : State, BlockInv s →
    (s.op = .idle → s.recValid = true → exec .map s = .next { s with
      errCode := .none
      errIndex := 0
      rd := mapCore Config.build s.record
      readValid := true
      done := true }) ∧
    (s.op = .idle → s.recValid = false → exec .map s = .next { s with errCode := .noRecord, errIndex := 0, done := true }) ∧
    (s.op ≠ .idle → exec .map s = .next { s with reject := true })

/-- R190 and R191: `CAL_START` while idle. The first failing check, the references compared as rationals, is reported and nothing else changes but `DONE`; with no failing check the session starts and READ_CAL is entered. While busy it is rejected. `SAMPLE_IDX <- 0` is the empty sample list (log entry 5). -/
def Obligations.CalStartEffect : Prop :=
  decode (.command 0x00000010) = .ok .calStart ∧
  ∀ s : State, BlockInv s →
    (∀ n : Nat, s.op = .idle → s.cfg.startCheckFails n → (∀ m : Nat, m < n → ¬ s.cfg.startCheckFails m) →
      exec .calStart s = .next { s with errCode := .configError, errIndex := BitVec.ofNat 6 n, done := true }) ∧
    (s.op = .idle → (∀ n : Nat, ¬ s.cfg.startCheckFails n) → exec .calStart s = .next { s with
      errCode := .none
      errIndex := 0
      done := false
      op := .cal
      calState := .readCal
      substep := .entry
      ses :=
        { offset := 0, gain := 0, mlowMant := 0, mlowExp := 0, mhighMant := 0, mhighExp := 0
          settleMs := s.cfg.settleInitMs.setWidth 32, retryCount := 0, round := 0, boardId := 0, temp := 0
          ppm := 0, offCorr := 0, acqFails := 0, acqRun := 0, newOffset := 0, newGain := 0 }
      stopReq := .none
      batchRetry := 0
      roundWrote := false
      roundStop := false
      corrExact := 0
      ppmExact := 0
      sampleBuf := [] }) ∧
    (s.op ≠ .idle → exec .calStart s = .next { s with reject := true })

/-- `CAL_STOP_KEEP`, `CAL_STOP_ADJUST` and `CAL_ABORT` (R175, R222-R224): while a calibration runs each latches its request and changes nothing else; while idle each completes as `NOP` does; while another command is busy each is rejected. -/
def Obligations.StopCommands : Prop :=
  ∀ s : State, ∀ e ∈ [(Instr.calStopKeep, StopReq.keep), (.calStopAdjust, .adjust), (.calAbort, .abort)],
    (s.op = .cal → exec e.1 s = .next { s with stopReq := e.2 }) ∧
    (s.op = .idle → exec e.1 s = .next { s with errCode := .none, errIndex := 0, done := true }) ∧
    (s.op ≠ .cal → s.op ≠ .idle → exec e.1 s = .next { s with reject := true })

/-- R126: a received byte, valid symbol or not, is kept while the acquisition waits and fewer than 35 are held, and is discarded with no effect otherwise. The instruction of a valid symbol does the same with its byte. An acquisition's two await points are the model's aPulse and aRead (log entry 7). -/
def Obligations.ByteCapture : Prop :=
  ∀ s : State, receive none s = .next s ∧
    ∀ b : Byte,
      (∀ h : s.rxcnt.toNat < 35, s.substep = .aPulse ∨ s.substep = .aRead →
        receive (some b) s = .next { s with rxbuf := s.rxbuf.set s.rxcnt.toNat b, rxcnt := s.rxcnt + 1 } ∧
        ∀ n : BitVec 4, symbolOf n = b →
          exec (.symbol n) s = .next { s with rxbuf := s.rxbuf.set s.rxcnt.toNat b, rxcnt := s.rxcnt + 1 }) ∧
      (35 ≤ s.rxcnt.toNat ∨ ¬ (s.substep = .aPulse ∨ s.substep = .aRead) →
        receive (some b) s = .next s ∧ ∀ n : BitVec 4, symbolOf n = b → exec (.symbol n) s = .next s)

/-- The seven supply requests (R13, R24, R114): each shows its op and argument on the supply port, restarts the timer, marks one request outstanding and holds at its await point. Nothing else changes. -/
def Obligations.SupplyRequests : Prop :=
  ∀ (s : State) (arg : Word),
    ∀ e ∈ [(Instr.supIdentify arg, (1 : BitVec 4), Await.tIdent), (.supReadOffset arg, 2, .tRoff), (.supReadGain arg, 3, .tRgain),
        (.supSetOutput arg, 4, .tSet), (.supWriteOffset arg, 5, .tWoff), (.supWriteGain arg, 6, .tWgain), (.supReadTemp arg, 7, .tTemp)],
      encode e.1 = .supply e.2.1 arg ∧
      exec e.1 s = .next { s with
        supReqValid := true, supReqOp := e.2.1, supReqArg := arg, supPending := true, tmr := 0, substep := e.2.2 }

/-- A command written while busy changes nothing but `REJECT`, unless it is `SOFT_RESET`, or a stop command while a calibration runs (R175, R275). The word is any 32-bit word. -/
def Obligations.RejectedCommand : Prop :=
  ∀ (s : State) (v : Word), s.op ≠ .idle → v ≠ 0x0000001F →
    (s.op = .cal → v ≠ 0x00000011 ∧ v ≠ 0x00000012 ∧ v ≠ 0x00000013) →
    commandIssue v s = .next { s with reject := true }

/-- R180: a word with a nonzero bit in 31:8, or an opcode R92 does not list, is illegal: while idle it raises `ILLEGAL_COMMAND`, while busy it sets `REJECT` and nothing else. -/
def Obligations.IllegalCommand : Prop :=
  ∀ (s : State) (v : Word), BlockInv s →
    (v.extractLsb' 8 24 ≠ 0 ∨
      v.extractLsb' 0 8 ∉ ([0x00, 0x01, 0x02, 0x03, 0x04, 0x10, 0x11, 0x12, 0x13, 0x1E, 0x1F] : List Byte)) →
    (s.op = .idle → commandIssue v s = .next { s with errCode := .illegalCommand, errIndex := 0, done := true }) ∧
    (s.op ≠ .idle → commandIssue v s = .next { s with reject := true })

/-! ### Errors and transitions (spec/60_exceptions.md, spec/44_calibration.md) -/

/-- R243: `raise E(i)` records the code and the index, ends the operation with `DONE` = 1, and, in a running calibration state, goes to FAILED with the line, the log offer and the outstanding request dropped. No await point is left, as no operation is in progress (R265). Nothing else changes. -/
def Obligations.RaiseEffect : Prop :=
  ∀ (s : State) (e : ErrCode) (i : BitVec 6),
    (1 ≤ s.calState.code.toNat ∧ s.calState.code.toNat ≤ 8 → raiseError e i s = s.failedWith e i) ∧
    (¬ (1 ≤ s.calState.code.toNat ∧ s.calState.code.toNat ≤ 8) →
      raiseError e i s = { s with errCode := e, errIndex := i, op := .idle, substep := .none, done := true })

/-- `goto(S)` (R192): a pending abort is taken, with the state being left as the index; otherwise the state is entered, and CONVERGED ends the run. Nothing else changes. -/
def Obligations.GotoEffect : Prop :=
  ∀ (s : State) (c : CalState),
    (s.stopReq = .abort → gotoState c s = { s with
      errCode := .calAborted, errIndex := s.calState.code.setWidth 6, calState := .aborted
      op := .idle, substep := .none, done := true }) ∧
    (s.stopReq ≠ .abort → c = .converged →
      gotoState c s = { s with calState := .converged, op := .idle, substep := .none, done := true }) ∧
    (s.stopReq ≠ .abort → c ≠ .converged → gotoState c s = { s with calState := c, substep := .entry })

/-! ### The acquisition's phases (spec/40_frame_reader.md, spec/43_host_commands.md rule R177) -/

/-- R122: the pulse phase of ACQUIRE, SAMPLE and a calibration sample. The tick is counted, and once `PULSE_MS` ticks are counted the line falls, the timer restarts and the read phase begins. Nothing else changes. The await points' names are the model's choice (log entry 7). -/
def Obligations.PulsePhase : Prop :=
  ∀ (b : BuildParams) (s : State) (inp : StepInput) (read : Op),
    (s.op = .acqPulse ∧ read = .acqRead) ∨ (s.op = .smpPulse ∧ read = .smpRead) ∨
      (s.op = .cal ∧ (s.calState = .measLow ∨ s.calState = .measHigh) ∧ s.substep = .aPulse ∧ read = .cal) →
    (s.cfg.pulseMs.toNat ≤ (s.ticked inp.tick).toNat →
      advance b inp s = .next { s with txEn := false, tmr := 0, op := read, substep := .aRead }) ∧
    ((s.ticked inp.tick).toNat < s.cfg.pulseMs.toNat →
      advance b inp s = .next { s with tmr := s.ticked inp.tick })

/-- ACQUIRE's read phase (R120, R123-R125): all 35 bytes become `FRAME` and the command completes, even in the step of the timeout; else the timeout raises `TRANSPORT_TIMEOUT` with the count and `FRAME` unchanged; else it holds. Nothing else changes. -/
def Obligations.AcquireReadPhase : Prop :=
  ∀ (b : BuildParams) (s : State) (inp : StepInput), BlockInv s → s.op = .acqRead →
    (s.rxcnt = 35 → advance b inp s = .next { s with
      tmr := s.ticked inp.tick, frame := s.rxbuf, op := .idle, substep := .none, done := true }) ∧
    (s.rxcnt ≠ 35 → s.cfg.timeoutMs.toNat ≤ (s.ticked inp.tick).toNat → advance b inp s = .next { s with
      tmr := s.ticked inp.tick, errCode := .transportTimeout, errIndex := s.rxcnt, op := .idle, substep := .none, done := true }) ∧
    (s.rxcnt ≠ 35 → (s.ticked inp.tick).toNat < s.cfg.timeoutMs.toNat →
      advance b inp s = .next { s with tmr := s.ticked inp.tick })

/-- SAMPLE's read phase (R177): the 35th byte's step stores the frame, decodes and maps it; a framing failure reports the lowest invalid index and leaves `REC` and `RD_*` old and invalid; a timeout leaves them untouched; else it holds. -/
def Obligations.SampleReadPhase : Prop :=
  ∀ (b : BuildParams) (s : State) (inp : StepInput), BlockInv s → s.op = .smpRead →
    (s.rxcnt = 35 → (∀ i : Fin 35, symbolOk s.rxbuf[i]) → advance b inp s = .next { s with
      tmr := s.ticked inp.tick, frame := s.rxbuf
      record := Vector.ofFn (recordByte s.rxbuf), recValid := true
      rd := mapCore b (Vector.ofFn (recordByte s.rxbuf)), readValid := true
      op := .idle, substep := .none, done := true }) ∧
    (∀ i : Fin 35, s.rxcnt = 35 → ¬ symbolOk s.rxbuf[i] → (∀ j : Fin 35, j < i → symbolOk s.rxbuf[j]) →
      advance b inp s = .next { s with
        tmr := s.ticked inp.tick, frame := s.rxbuf, recValid := false, readValid := false
        errCode := .framingError, errIndex := BitVec.ofNat 6 i.val, op := .idle, substep := .none, done := true }) ∧
    (s.rxcnt ≠ 35 → s.cfg.timeoutMs.toNat ≤ (s.ticked inp.tick).toNat → advance b inp s = .next { s with
      tmr := s.ticked inp.tick, errCode := .transportTimeout, errIndex := s.rxcnt, op := .idle, substep := .none, done := true }) ∧
    (s.rxcnt ≠ 35 → (s.ticked inp.tick).toNat < s.cfg.timeoutMs.toNat →
      advance b inp s = .next { s with tmr := s.ticked inp.tick })

/-- A step of a calibration sample's read phase (R14, R123, R177, R199), all its cases. Before the 35th byte and the timeout it holds, the tick counted. A good sample is appended with its arrival index: one that is not the batch's last starts the next in the same step, and the N-th goes on to the batch's end in the same step. A timed-out sample, and one with an invalid symbol (whose frame is stored, and whose Record and Reading become invalid), is counted, and either fails the run or is retried in the same step. `ERR_CODE` is not changed by a failed sample. `SAMPLE_BUF` is a list (log entry 5). With `MAX_ACQ_FAILS` = 65535 the saturated count never passes the cap (log entry 15). -/
def Obligations.CalibrationSample : Prop :=
  ∀ (b : BuildParams) (s : State) (inp : StepInput) (p : Point), BlockInv s → s.op = .cal → s.calState = p.measState →
    s.substep = .aRead →
    let ticked := { s with tmr := s.ticked inp.tick }
    let reading := mapCore b (Vector.ofFn (recordByte s.rxbuf))
    let good := { ticked with
      frame := s.rxbuf
      record := Vector.ofFn (recordByte s.rxbuf), recValid := true
      rd := reading, readValid := true
      sampleBuf := s.sampleBuf ++ [{ neg := reading.neg, mant := reading.mant, exp := reading.exp, arrival := s.sampleBuf.length }]
      ses := { s.ses with acqRun := 0 } }
    let lost := { ticked with ses := s.ses.acqFailed }
    let bad := { lost with frame := s.rxbuf, recValid := false, readValid := false }
    (s.rxcnt ≠ 35 → (s.ticked inp.tick).toNat < s.cfg.timeoutMs.toNat → advance b inp s = .next ticked) ∧
    (s.rxcnt = 35 → (∀ i : Fin 35, symbolOk s.rxbuf[i]) →
      (s.sampleBuf.length + 1 < s.cfg.nSamples.toNat → advance b inp s = .next good.sampleStarted) ∧
      (s.sampleBuf.length + 1 = s.cfg.nSamples.toNat → advance b inp s = finishBatch p good)) ∧
    (s.rxcnt ≠ 35 → s.cfg.timeoutMs.toNat ≤ (s.ticked inp.tick).toNat →
      (s.ses.acqFailed.acqRun.toNat ≤ s.cfg.maxAcqFails.toNat → advance b inp s = .next lost.sampleStarted) ∧
      (s.cfg.maxAcqFails.toNat < s.ses.acqFailed.acqRun.toNat → advance b inp s = .next (lost.failedWith .calAcqFail 0))) ∧
    (s.rxcnt = 35 → (∃ i : Fin 35, ¬ symbolOk s.rxbuf[i]) →
      (s.ses.acqFailed.acqRun.toNat ≤ s.cfg.maxAcqFails.toNat → advance b inp s = .next bad.sampleStarted) ∧
      (s.cfg.maxAcqFails.toNat < s.ses.acqFailed.acqRun.toNat → advance b inp s = .next (bad.failedWith .calAcqFail 0)))

/-- R201-R203 with R196 and R198: the end of a batch. A spread above the threshold, both exact rationals, rejects the batch: counted, `CAL_UNSTABLE` past the cap, else a longer settle time and the set-point again. A spread at most the threshold accepts it: the counter is cleared and the median stored. -/
def Obligations.BatchDecision : Prop :=
  ∀ (p : Point) (s : State) (m : Batch), s.batchRetry.toNat ≤ 256 → s.calState = p.measState →
    batchOf s.cfg.nSamples.toNat s.sampleBuf = some m →
    (s.cfg.noiseThr.toRat < m.high.value.toRat - m.low.value.toRat →
      let retries : Word := if s.ses.retryCount = BitVec.allOnes 32 then s.ses.retryCount else s.ses.retryCount + 1
      (s.cfg.maxBatchRetries.toNat < s.batchRetry.toNat + 1 → finishBatch p s = .next (State.failedWith
        { s with batchRetry := s.batchRetry + 1, ses := { s.ses with retryCount := retries } } .calUnstable 0)) ∧
      (s.batchRetry.toNat + 1 ≤ s.cfg.maxBatchRetries.toNat → finishBatch p s = .next (gotoState p.setState
        { s with
          batchRetry := s.batchRetry + 1
          ses := { s.ses with retryCount := retries, settleMs := grow s.ses.settleMs } }))) ∧
    (m.high.value.toRat - m.low.value.toRat ≤ s.cfg.noiseThr.toRat →
      finishBatch p s = .next (gotoState p.after (match p with
        | .low => { s with
          batchRetry := 0
          ses := { s.ses with mlowMant := BitVec.ofInt 32 (signedMant m.median.neg m.median.mant), mlowExp := m.median.exp } }
        | .high => { s with
          batchRetry := 0
          ses := { s.ses with mhighMant := BitVec.ofInt 32 (signedMant m.median.neg m.median.mant), mhighExp := m.median.exp } })))

/-- R200: a batch of N samples, N odd, held with their arrival indices, has a median: the middle element of the samples sorted by value as rationals, equal values in order of arrival; the batch's low and high are the two ends. The order by value and arrival is the model's reading of the stable sort (log entry 8). -/
def Obligations.MedianOfBatch : Prop :=
  ∀ buf : List Sample, buf.length % 2 = 1 → buf.map Sample.arrival = List.range buf.length →
    ∃ (m : Batch) (sorted : List Sample), batchOf buf.length buf = some m ∧ sorted.Perm buf ∧
      sorted.Pairwise (fun a b => a.value.toRat < b.value.toRat ∨ (a.value.toRat = b.value.toRat ∧ a.arrival < b.arrival)) ∧
      sorted[(buf.length - 1) / 2]? = some m.median ∧ sorted.head? = some m.low ∧ sorted.getLast? = some m.high

/-! ### Arithmetic (spec/00_scope.md rule R8, spec/44_calibration.md rules R204-R214) -/

/-- R204: `grow(s) = min(2^32 - 1, s + ceil(s / 4))`; for s ≥ 1 it strictly increases s until the u32 ceiling; and the rule's four values. -/
def Obligations.SettleGrowth : Prop :=
  (∀ s : Word, ((grow s).toNat : ℤ) = min (2 ^ 32 - 1) ((s.toNat : ℤ) + ⌈(s.toNat : ℚ) / 4⌉)) ∧
  (∀ s : Word, s ≠ 0 → s.toNat < (grow s).toNat ∨ s = BitVec.allOnes 32) ∧
  grow 1 = 2 ∧ grow 4 = 5 ∧ grow 100 = 125 ∧ grow 125 = 157

/-- `rnd` of a quotient of integers is the nearest integer, ties away from zero (R8): within one half, and at exactly one half the one of larger magnitude. -/
def Obligations.RoundNearest : Prop :=
  ∀ q : Ratio, q.den ≠ 0 → q.rnd = rndRat q.toRat ∧
    |q.toRat - (q.rnd : ℚ)| ≤ 1 / 2 ∧ (|q.toRat - (q.rnd : ℚ)| = 1 / 2 → |q.toRat| < |(q.rnd : ℚ)|)

/-- R208: for G ≥ 1 and slope ≥ 0 the damped gain is exactly the integer the rule names; under damping a negative slope fails the run with `CAL_DIVERGENCE(1)` in COMPUTE's step, and the new gain of a correction that passes is the damped one. -/
def Obligations.DampedGain : Prop :=
  (∀ (g : ℤ) (q : Ratio), 1 ≤ g → q.den ≠ 0 → 0 ≤ q.toRat → IsDampedGain ((g : ℚ) ^ 2 * q.toRat) (dampedGain g q)) ∧
  ∀ (b : BuildParams) (s : State) (inp : StepInput), BlockInv s → s.op = .cal → s.calState = .compute → s.cfg.gainDamp = true →
    (slopeRat s.cfg s.ses < 0 → advance b inp s = .next (s.failedWith .calDivergence 1)) ∧
    (0 ≤ slopeRat s.cfg s.ses → ∀ k, computeCorrection s.cfg s.ses = .ok k →
      IsDampedGain ((s.ses.gain.toInt : ℚ) ^ 2 * slopeRat s.cfg s.ses) k.newGain ∧
      ∀ t, advance b inp s = .next t → t.ses.newGain.toInt = k.newGain)

/-- ComputeCorrection over the rationals (R205-R214): every quantity is exact, rounded only by `rnd`; the checks run in the rule's order; a passing correction has exactly the four results. -/
def Obligations.CorrectionExact : Prop :=
  ∀ (c : Cfg) (x : Session), c.refLow.toRat ≠ c.refHigh.toRat → 1 ≤ x.gain.toInt →
    (c.gainDamp = true → slopeRat c x < 0 → computeCorrection c x = .error 1) ∧
    (¬ (c.gainDamp = true ∧ slopeRat c x < 0) →
      ∃ ng : ℤ, IsNewGain c x ng ∧
        let no := x.offset.toInt - corrRat c x
        (no < c.offsetMin.toInt ∨ c.offsetMax.toInt < no → computeCorrection c x = .error 2) ∧
        (c.offsetMin.toInt ≤ no ∧ no ≤ c.offsetMax.toInt → ng < c.gainMin.toInt ∨ c.gainMax.toInt < ng →
          computeCorrection c x = .error 3) ∧
        (c.offsetMin.toInt ≤ no ∧ no ≤ c.offsetMax.toInt → c.gainMin.toInt ≤ ng ∧ ng ≤ c.gainMax.toInt →
          computeCorrection c x =
            .ok { newOffset := no, newGain := ng, corr := corrRat c x, ppm := ppmRat x.gain.toInt ng }))

/-- COMPUTE's step (R205, R213-R215): a diverging correction fails the run with all results unchanged; a passing one stores its results, saturated and exact, and goes where the stop request says. -/
def Obligations.ComputeStep : Prop :=
  ∀ (b : BuildParams) (s : State) (inp : StepInput), BlockInv s → s.op = .cal → s.calState = .compute →
    (∀ i, computeCorrection s.cfg s.ses = .error i → advance b inp s = .next (s.failedWith .calDivergence i)) ∧
    (∀ k, computeCorrection s.cfg s.ses = .ok k →
      let stored := { s with
        ses := { s.ses with
          newOffset := BitVec.ofInt 32 k.newOffset, newGain := BitVec.ofInt 32 k.newGain
          offCorr := BitVec.ofInt 32 (max (-(2 ^ 31)) (min (2 ^ 31 - 1) k.corr))
          ppm := BitVec.ofInt 32 (max (-(2 ^ 31)) (min (2 ^ 31 - 1) k.ppm)) }
        corrExact := k.corr, ppmExact := k.ppm }
      (s.stopReq = .none → advance b inp s = .next { stored with
        roundWrote := false, roundStop := false, calState := .writeCal, substep := .entry }) ∧
      (s.stopReq = .adjust → advance b inp s = .next { stored with
        roundWrote := false, roundStop := true, calState := .writeCal, substep := .entry }) ∧
      (s.stopReq = .keep → advance b inp s = .next { stored with
        roundWrote := false, roundStop := true, calState := .logRound, substep := .entry }) ∧
      (s.stopReq = .abort → advance b inp s = .next { stored with
        roundWrote := false, errCode := .calAborted, errIndex := 6, calState := .aborted
        op := .idle, substep := .none, done := true }))

/-- R230: the worked example, undamped and damped: the slope is 0.99925 exactly, and the four results for every offset whose correction stays in the reset bounds; below them the offset check fails (R214). -/
def Obligations.WorkedExample : Prop :=
  ∀ (o : Word),
    let c : Cfg := { Cfg.reset with refLowMant := 1, refHighMant := 5 }
    let x : Session := { Session.reset with
      offset := o, gain := 1000000, mlowMant := 1001, mlowExp := 0xFD, mhighMant := 4998, mhighExp := 0xFD }
    x.mLow.toRat = 1.001 ∧ x.mHigh.toRat = 4.998 ∧ slopeRat c x = 0.99925 ∧
    (-(2 ^ 31) + 1750 ≤ o.toInt →
      computeCorrection c x = .ok { newOffset := o.toInt - 1750, newGain := 999250, corr := 1750, ppm := -750 } ∧
      computeCorrection { c with gainDamp := true } x =
        .ok { newOffset := o.toInt - 1750, newGain := 999625, corr := 1750, ppm := -375 }) ∧
    (o.toInt < -(2 ^ 31) + 1750 →
      computeCorrection c x = .error 2 ∧ computeCorrection { c with gainDamp := true } x = .error 2)

/-! ### The calibration's steps (spec/44_calibration.md, spec/00_scope.md rules R12-R15) -/

/-- `txn`'s await (R13), at each of the seven await points with the op code it reports: without a response the tick is counted and the timeout raises `CAL_SUPPLY_TIMEOUT` with the op code; before the timeout it holds; a response is taken whatever the tick and the timer are: the request is no longer outstanding, and what the state does with the response follows in the same step. -/
def Obligations.TransactionAwait : Prop :=
  ∀ (b : BuildParams) (s : State) (inp : StepInput), BlockInv s →
    ∀ e ∈ [(Await.tIdent, (1 : BitVec 6)), (.tRoff, 2), (.tRgain, 3), (.tSet, 4), (.tWoff, 5), (.tWgain, 6), (.tTemp, 7)],
      s.op = .cal → s.substep = e.1 →
      (inp.rsp = none → s.cfg.supTimeoutMs.toNat ≤ (s.ticked inp.tick).toNat →
        advance b inp s = .next (State.failedWith { s with tmr := s.ticked inp.tick } .calSupplyTimeout e.2)) ∧
      (inp.rsp = none → (s.ticked inp.tick).toNat < s.cfg.supTimeoutMs.toNat →
        advance b inp s = .next { s with tmr := s.ticked inp.tick }) ∧
      (∀ d, inp.rsp = some d → advance b inp s = afterResponse e.1 d { s with supPending := false })

/-- R194: READ_CAL. It asks for the board id, the offset and the gain in turn, writes each register when its response arrives, then checks the two constants against the bounds, signed. -/
def Obligations.ReadCalibration : Prop :=
  ∀ (b : BuildParams) (s : State) (inp : StepInput), BlockInv s → s.op = .cal → s.calState = .readCal →
    (s.substep = .entry → advance b inp s = .issue (.supIdentify 0) s) ∧
    (∀ d, inp.rsp = some d →
      (s.substep = .tIdent → advance b inp s =
        .issue (.supReadOffset 0) { s with supPending := false, ses := { s.ses with boardId := d } }) ∧
      (s.substep = .tRoff → advance b inp s =
        .issue (.supReadGain 0) { s with supPending := false, ses := { s.ses with offset := d } }) ∧
      (s.substep = .tRgain →
        let got := { s with supPending := false, ses := { s.ses with gain := d } }
        (s.ses.offset.toInt < s.cfg.offsetMin.toInt ∨ s.cfg.offsetMax.toInt < s.ses.offset.toInt →
          advance b inp s = .next (got.failedWith .calDivergence 4)) ∧
        (s.cfg.offsetMin.toInt ≤ s.ses.offset.toInt ∧ s.ses.offset.toInt ≤ s.cfg.offsetMax.toInt →
          d.toInt < s.cfg.gainMin.toInt ∨ s.cfg.gainMax.toInt < d.toInt →
          advance b inp s = .next (got.failedWith .calDivergence 5)) ∧
        (s.cfg.offsetMin.toInt ≤ s.ses.offset.toInt ∧ s.ses.offset.toInt ≤ s.cfg.offsetMax.toInt →
          s.cfg.gainMin.toInt ≤ d.toInt ∧ d.toInt ≤ s.cfg.gainMax.toInt →
          advance b inp s = .next (gotoState .setLow got))))

/-- SET_LOW and SET_HIGH (R195, R197, R12): the set-point's own argument is sent, the response's value is ignored, the settle wait counts `CAL_SETTLE_MS` ticks from 0, and then the measurement is entered. -/
def Obligations.SetAndSettle : Prop :=
  ∀ (b : BuildParams) (s : State) (inp : StepInput) (p : Point), BlockInv s → s.op = .cal → s.calState = p.setState →
    (s.substep = .entry → advance b inp s =
      .issue (.supSetOutput (match p with | .low => s.cfg.setLowArg | .high => s.cfg.setHighArg)) s) ∧
    (∀ d, s.substep = .tSet → inp.rsp = some d →
      advance b inp s = .next { s with supPending := false, tmr := 0, substep := .wSettle }) ∧
    (s.substep = .wSettle → (s.ticked inp.tick).toNat < s.ses.settleMs.toNat →
      advance b inp s = .next { s with tmr := s.ticked inp.tick }) ∧
    (s.substep = .wSettle → s.ses.settleMs.toNat ≤ (s.ticked inp.tick).toNat →
      advance b inp s = .next (gotoState p.measState { s with tmr := s.ticked inp.tick }))

/-- R216: WRITE_CAL. The offset and then the gain are sent, each session register is updated when its write's response arrives, and a timeout of the gain write leaves the offset new and the gain old with the run FAILED. -/
def Obligations.WriteCalibration : Prop :=
  ∀ (b : BuildParams) (s : State) (inp : StepInput), BlockInv s → s.op = .cal → s.calState = .writeCal →
    (s.substep = .entry → advance b inp s = .issue (.supWriteOffset s.ses.newOffset) s) ∧
    (∀ d, inp.rsp = some d →
      (s.substep = .tWoff → advance b inp s = .issue (.supWriteGain s.ses.newGain)
        { s with supPending := false, ses := { s.ses with offset := s.ses.newOffset } }) ∧
      (s.substep = .tWgain → advance b inp s = .next (gotoState .logRound
        { s with supPending := false, ses := { s.ses with gain := s.ses.newGain }, roundWrote := true }))) ∧
    (s.substep = .tWgain → inp.rsp = none → s.cfg.supTimeoutMs.toNat ≤ (s.ticked inp.tick).toNat →
      advance b inp s = .next (State.failedWith { s with tmr := s.ticked inp.tick } .calSupplyTimeout 6))

/-- R217 up to the log handshake, with the row of R218 and R15: LOG_ROUND asks for the temperature, then offers the row of six fields, whose ppm is 0 when the round wrote nothing, and holds it until it is accepted. -/
def Obligations.LogRowOffered : Prop :=
  ∀ (b : BuildParams) (s : State) (inp : StepInput), BlockInv s → s.op = .cal → s.calState = .logRound →
    (s.substep = .entry → advance b inp s = .issue (.supReadTemp 0) s) ∧
    (∀ d, s.substep = .tTemp → inp.rsp = some d → advance b inp s = .next { s with
      supPending := false
      ses := { s.ses with temp := d }
      logRow :=
        { boardId := s.ses.boardId, refChannel := s.cfg.refChannel, temperature := d, offset := s.ses.offset
          gain := s.ses.gain, ppm := if s.roundWrote then s.ses.ppm else 0 }
      logValid := true
      substep := .lEmit }) ∧
    (s.substep = .lEmit → inp.logReady = false → advance b inp s = .next s)

/-- The accepted row (R15, R217) and the end of the round (R219): the round is counted, the settle time grows, and the tests run in the rule's order. -/
def Obligations.EndOfRound : Prop :=
  ∀ (b : BuildParams) (s : State) (inp : StepInput), BlockInv s → s.op = .cal → s.calState = .logRound →
    s.substep = .lEmit → inp.logReady = true →
    let rounds : BitVec 16 := if s.ses.round = BitVec.allOnes 16 then s.ses.round else s.ses.round + 1
    let ended := { s with logValid := false, ses := { s.ses with round := rounds, settleMs := grow s.ses.settleMs } }
    let met := s.cfg.tolEn = true ∧ |s.ppmExact| ≤ (s.cfg.ppmTol.toNat : ℤ) ∧ |s.corrExact| ≤ (s.cfg.offsetTol.toNat : ℤ)
    let limit := (s.cfg.maxRounds ≠ 0 ∧ s.cfg.maxRounds.toNat ≤ rounds.toNat) ∨
      s.cfg.settleMaxMs.toNat < (grow s.ses.settleMs).toNat
    (s.roundStop = true → advance b inp s = .next (gotoState .converged ended)) ∧
    (s.roundStop = false → met → advance b inp s = .next (gotoState .converged ended)) ∧
    (s.roundStop = false → ¬ met → limit → s.cfg.tolEn = false → advance b inp s = .next (gotoState .converged ended)) ∧
    (s.roundStop = false → ¬ met → limit → s.cfg.tolEn = true → advance b inp s = .next (ended.failedWith .calTimeout 0)) ∧
    (s.roundStop = false → ¬ met → ¬ limit →
      advance b inp s = .next (gotoState .setLow { ended with roundWrote := false, roundStop := false }))

/-! ### Frames and Records (spec/41_frame_decoder.md) -/

/-- R145: decoding succeeds iff every byte's framing bits are right, and a failure gives the least index whose bits are wrong. -/
def Obligations.FramingLaw : Prop :=
  ∀ f : Frame,
    ((∃ r, decodeCore f = .ok r) ↔ ∀ i : Fin 35, f[i] &&& 0xC3 = 0x43) ∧
    (∀ i : Fin 35, decodeCore f = .error i ↔ f[i] &&& 0xC3 ≠ 0x43 ∧ ∀ j : Fin 35, j < i → f[j] &&& 0xC3 = 0x43)

/-- R146 and R147: the frame of R147 for a Record and a sync nibble decodes to that Record, unpacking R146's encoding recovers every nibble, and the frames that decode to a Record are exactly those 16. -/
def Obligations.RecordRoundTrip : Prop :=
  (∀ (n0 : BitVec 4) (r : Record), decodeCore (encodeRecord n0 r) = .ok r ∧
    (encodeRecord n0 r)[0] = 0x43 ||| (n0.setWidth 8 <<< 2) ∧
    (encodeRecord n0 r)[1] = 0x43 ||| (((~~~r[0] >>> 4) &&& 0xF) <<< 2) ∧
    (encodeRecord n0 r)[2] = 0x43 ||| ((~~~r[0] &&& 0xF) <<< 2) ∧
    ∀ i : Fin 17, 1 ≤ i.val →
      (encodeRecord n0 r)[2 * i.val + 1] = 0x43 ||| (((r[i] >>> 4) &&& 0xF) <<< 2) ∧
      (encodeRecord n0 r)[2 * i.val + 2] = 0x43 ||| ((r[i] &&& 0xF) <<< 2)) ∧
  (∀ (n0 : BitVec 4) (nib : Fin 34 → BitVec 4),
    (encodeNibbles n0 nib)[0] = 0x43 ||| (n0.setWidth 8 <<< 2) ∧
    (∀ j : Fin 34, (encodeNibbles n0 nib)[j.val + 1] = 0x43 ||| ((nib j).setWidth 8 <<< 2)) ∧
    ∃ r, decodeCore (encodeNibbles n0 nib) = .ok r ∧
      r[0] = ~~~(nib 0 ++ nib 1) ∧
      (∀ i : Fin 17, 1 ≤ i.val → r[i] = nib ⟨2 * i.val, by omega⟩ ++ nib ⟨2 * i.val + 1, by omega⟩) ∧
      ∀ j : Fin 34, recordNibble r j = nib j) ∧
  (∀ (f : Frame) (r : Record), decodeCore f = .ok r ↔ ∃ n0, f = encodeRecord n0 r) ∧
  (∀ (m n : BitVec 4) (r : Record), encodeRecord m r = encodeRecord n r → m = n)

/-! ### The mapper (spec/42_reading_mapper.md) -/

/-- R154: the parse reads the longest front of the text that is a numeral; with no digit it is 0, otherwise the sign, the digits as a decimal integer and minus the count of fraction digits. -/
def Obligations.ParseLongest : Prop :=
  ∀ text : List TextChar, ∃ (front rest : List TextChar) (neg : Bool) (whole fraction : List (Fin 10)) (point : Bool),
    text = front ++ rest ∧ IsNumeral front neg whole fraction point ∧
    (∀ (longer : List TextChar) (n : Bool) (w f : List (Fin 10)) (p : Bool),
      longer <+: text → IsNumeral longer n w f p → longer.length ≤ front.length) ∧
    parseText text =
      if whole ++ fraction = [] then { neg := false, mant := 0, exp := 0 }
      else
        { neg := neg
          mant := ((whole ++ fraction).map Fin.val).foldl (fun a d => 10 * a + d) 0
          exp := -(fraction.length : ℤ) }

/-- The Reading is exact (R48, R152, R154, R155): no register of a MAP truncates. The mantissa is at most 999999, the exponent in -15..6, the text at most 12 characters, and each register holds the value the rules give. The exponent is the parse's plus the power of ten of the scale flags: -9, -6, -3, 3 or 6, or 0 under dBm or percent or with no flag set. -/
def Obligations.ReadingExact : Prop :=
  ∀ (b : BuildParams) (r : Record),
    let p := parseText (displayText b r)
    let d := mapCore b r
    let power : ℤ :=
      if r[1].getLsbD 0 || r[15].getLsbD 4 then 0 else if r[1].getLsbD 7 then 6 else if r[1].getLsbD 6 then 3
      else if r[1].getLsbD 1 then -3 else if r[1].getLsbD 2 then -6 else if r[2].getLsbD 6 then -9 else 0
    d.mant.toNat = p.mant ∧ d.mant.toNat ≤ 999999 ∧
    d.scale = scaleOf r ∧ (scaleOf r).power = power ∧ d.exp.toInt = p.exp + power ∧ -15 ≤ d.exp.toInt ∧ d.exp.toInt ≤ 6 ∧
    d.neg = p.neg ∧
    d.textLen.toNat = (displayText b r).length ∧ (displayText b r).length ≤ 12 ∧
    (∀ j : Fin 12, d.text[j] = match (displayText b r)[j.val]? with | some c => c.ascii | none => 0)

/-- R162: changing any bit the mapper never reads leaves the Reading unchanged, for every build. -/
def Obligations.UnreadInputs : Prop :=
  ∀ (b : BuildParams) (r q : Record),
    (∀ i : Fin 17, r[i] &&& mapperMask[i] = q[i] &&& mapperMask[i]) → mapCore b r = mapCore b q

/-- The cell walk (R152, R153): the text is the six cells in order; a set flag gives '-' in cell 0 and '.' elsewhere, before the glyph; a nonzero pattern gives its glyph, or sets its bit of `RD_UNMAPPED` when no entry matches. With a valid codebook the lookup is the unique match. The glyphs of indices 0 to 14 are 0123456789ELnr- (R108, R153), with the character codes of R109. -/
def Obligations.CellWalk : Prop :=
  ((List.finRange 15).map glyph =
    (List.finRange 10).map TextChar.digit ++ [.letterE, .letterL, .letterN, .letterR, .minus] ∧
    ((List.finRange 15).map glyph ++ [TextChar.point]).map TextChar.ascii =
      ([0x30, 0x31, 0x32, 0x33, 0x34, 0x35, 0x36, 0x37, 0x38, 0x39, 0x45, 0x4C, 0x6E, 0x72, 0x2D, 0x2E] : List Byte)) ∧
  (∀ (b : BuildParams), b.valid = true → ∀ (p : BitVec 7) (g : Fin 15), lookupGlyph b p = some g ↔ b.segCodebook[g] = p) ∧
  (∀ (b : BuildParams) (p : BitVec 7), lookupGlyph b p = none ↔ ∀ g : Fin 15, b.segCodebook[g] ≠ p) ∧
  (∀ (b : BuildParams) (r : Record),
    displayText b r = cellText b r 0 ++ cellText b r 1 ++ cellText b r 2 ++ cellText b r 3 ++ cellText b r 4 ++ cellText b r 5 ∧
    ∀ k : Fin 6,
      let cell : Byte := r[3 + k.val]
      let flag := match b.digitFlagBit with | .bit7 => cell.getLsbD 7 | .bit0 => cell.getLsbD 0
      let seg : BitVec 7 := match b.digitFlagBit with | .bit7 => cell.extractLsb' 0 7 | .bit0 => cell.extractLsb' 1 7
      cellText b r k =
        (if flag then [if k = 0 then TextChar.minus else .point] else []) ++
        (if seg = 0 then [] else match lookupGlyph b seg with | some g => [glyph g] | none => []) ∧
      ((mapCore b r).unmapped.getLsbD k.val = true ↔ seg ≠ 0 ∧ lookupGlyph b seg = none))

/-- R156 with R157, and R159 and R160: the unit of every switch byte and its overrides, the AC/DC code and the modifier. -/
def Obligations.UnitAndLabels : Prop :=
  (∀ (b : BuildParams) (r : Record),
    let d := mapCore b r
    (r[1].getLsbD 0 = true → d.unit = 9) ∧
    (r[1].getLsbD 0 = false → r[15].getLsbD 4 = true → d.unit = 10) ∧
    (r[1].getLsbD 0 = false → r[15].getLsbD 4 = false → d.unit = (switchUnit r[0]).1) ∧
    d.swinv = (switchUnit r[0]).2 ∧
    d.acdc.toNat = 2 * (r[2].getLsbD 2).toNat + (r[2].getLsbD 3).toNat ∧
    d.modifier = (if r[16].getLsbD 3 then .delta else if r[16].getLsbD 2 then .peakToPeak
      else if r[16].getLsbD 1 then .max else if r[15].getLsbD 2 then .min else .none) ∧
    d.scale = (if r[1].getLsbD 0 || r[15].getLsbD 4 then .none else if r[1].getLsbD 7 then .mega
      else if r[1].getLsbD 6 then .kilo else if r[1].getLsbD 1 then .milli
      else if r[1].getLsbD 2 then .micro else if r[2].getLsbD 6 then .nano else .none)) ∧
  ([0x00, 0x01, 0x02, 0x04, 0x08, 0x10, 0x20, 0x40, 0x80] : List Byte).map switchUnit =
    [(0, false), (4, false), (5, false), (6, false), (7, false), (5, false), (4, false), (3, false), (2, false)] ∧
  (∀ sw : Byte, sw ∉ ([0x00, 0x01, 0x02, 0x04, 0x08, 0x10, 0x20, 0x40, 0x80] : List Byte) → switchUnit sw = (15, true))

/-! ### The register window (spec/10_state.md, spec/20_memory.md) -/

/-- The packed registers as read, every field and every reserved bit: `STATUS` (R31), `CAL_STATUS` (R32), `CAL_CTRL` (R41) and `RD_ATTR` (R47); and the code tables of `OP` (R26), `CAL_STATE` (R27), `STOP_REQ` (R32), `ERR_CODE` (R240), `PREFIX` (R110) and `MOD` (R113). -/
def Obligations.StatusBits : Prop :=
  (∀ (b : BuildParams) (s : State) (off : BitVec 12), off &&& 0xFFC = 0x004 →
    let w := memRead b s off
    (w.getLsbD 0 = true ↔ s.op ≠ .idle) ∧ w.getLsbD 1 = s.done ∧ (w.getLsbD 2 = true ↔ s.errCode.code ≠ 0) ∧
    w.getLsbD 3 = s.reject ∧ w.getLsbD 4 = s.recValid ∧ w.getLsbD 5 = s.readValid ∧
    (w.getLsbD 6 = true ↔ 1 ≤ s.calState.code.toNat ∧ s.calState.code.toNat ≤ 8) ∧
    (w.getLsbD 7 = true ↔ s.rd.unmapped ≠ 0) ∧ w.getLsbD 8 = s.rd.swinv ∧ w.getLsbD 9 = s.txEn ∧
    w.extractLsb' 10 2 = 0 ∧ w.extractLsb' 12 4 = s.op.code ∧ w.extractLsb' 16 8 = s.errCode.code ∧
    w.extractLsb' 24 6 = s.errIndex ∧ w.extractLsb' 30 2 = 0) ∧
  (∀ (b : BuildParams) (s : State) (off : BitVec 12), off &&& 0xFFC = 0x008 →
    let w := memRead b s off
    w.extractLsb' 0 4 = s.calState.code ∧ w.extractLsb' 4 2 = s.stopReq.code ∧ w.extractLsb' 6 2 = 0 ∧
    w.extractLsb' 8 9 = s.batchRetry ∧ w.extractLsb' 17 15 = 0) ∧
  (∀ (b : BuildParams) (s : State) (off : BitVec 12), off &&& 0xFFC = 0x064 →
    let w := memRead b s off
    w.getLsbD 0 = s.cfg.gainDamp ∧ w.getLsbD 1 = s.cfg.tolEn ∧ w.extractLsb' 2 6 = 0 ∧
    w.extractLsb' 8 8 = s.cfg.refChannel ∧ w.extractLsb' 16 16 = 0) ∧
  (∀ (b : BuildParams) (s : State) (off : BitVec 12), off &&& 0xFFC = 0x308 →
    let w := memRead b s off
    w.extractLsb' 0 3 = s.rd.scale.code ∧ w.getLsbD 3 = false ∧ w.extractLsb' 4 4 = s.rd.unit ∧
    w.extractLsb' 8 2 = s.rd.acdc ∧ w.extractLsb' 10 2 = 0 ∧ w.extractLsb' 12 3 = s.rd.modifier.code ∧
    w.getLsbD 15 = false ∧ w.getLsbD 16 = s.rd.neg ∧ w.getLsbD 17 = s.rd.swinv ∧ w.extractLsb' 18 14 = 0) ∧
  ([Op.idle, .acqPulse, .acqRead, .smpPulse, .smpRead, .cal].map Op.code = [0, 1, 2, 3, 4, 8] ∧
    [CalState.idle, .readCal, .setLow, .measLow, .setHigh, .measHigh, .compute, .writeCal, .logRound, .converged, .failed,
      .aborted].map CalState.code = [0, 1, 2, 3, 4, 5, 6, 7, 8, 9, 10, 11] ∧
    [StopReq.none, .keep, .adjust, .abort].map StopReq.code = [0, 1, 2, 3] ∧
    [ErrCode.none, .transportTimeout, .framingError, .noRecord, .illegalCommand, .configError, .calUnstable, .calTimeout,
      .calDivergence, .calAcqFail, .calSupplyTimeout, .calAborted].map ErrCode.code =
      [0x00, 0x01, 0x02, 0x03, 0x04, 0x05, 0x10, 0x11, 0x12, 0x13, 0x14, 0x15] ∧
    [Scale.none, .nano, .micro, .milli, .kilo, .mega].map Scale.code = [0, 1, 2, 3, 4, 5] ∧
    [Modifier.none, .min, .max, .peakToPeak, .delta].map Modifier.code = [0, 1, 2, 3, 4])

/-- The views of the Record as read (R139-R142): `DS_FLAGS` bit by bit, `DS_SWPOS`, the six digit cells split by `DIGIT_FLAG_BIT`, and bargraph segment n, for n = 0 to 49, as bit n of `DS_BAR_LO` or bit n - 32 of `DS_BAR_HI`; every other bit of these words reads 0. -/
def Obligations.DisplayViews : Prop :=
  ∀ (b : BuildParams) (s : State),
    let w := memRead b s 0x280
    let r := s.record
    (∀ i : Nat, i < 8 → w.getLsbD i = r[1].getLsbD i) ∧
    w.getLsbD 8 = r[2].getLsbD 0 ∧ w.getLsbD 9 = r[2].getLsbD 1 ∧ w.getLsbD 10 = r[2].getLsbD 2 ∧
    w.getLsbD 11 = r[2].getLsbD 3 ∧ w.getLsbD 12 = r[2].getLsbD 6 ∧ w.getLsbD 13 = r[9].getLsbD 6 ∧
    w.getLsbD 14 = r[15].getLsbD 2 ∧ w.getLsbD 15 = r[16].getLsbD 1 ∧ w.getLsbD 16 = r[16].getLsbD 2 ∧
    w.getLsbD 17 = r[16].getLsbD 3 ∧ w.getLsbD 18 = r[15].getLsbD 4 ∧ w.extractLsb' 19 13 = 0 ∧
    memRead b s 0x284 = r[0].setWidth 32 ∧
    (∀ k : Fin 6,
      let cell := memRead b s (0x288 + 4 * BitVec.ofNat 12 k.val)
      let raw : Byte := r[3 + k.val]
      cell.extractLsb' 16 8 = raw ∧ cell.extractLsb' 24 8 = 0 ∧ cell.extractLsb' 9 7 = 0 ∧ cell.getLsbD 7 = false ∧
      (b.digitFlagBit = .bit7 → cell.getLsbD 8 = raw.getLsbD 7 ∧ cell.extractLsb' 0 7 = raw.extractLsb' 0 7) ∧
      (b.digitFlagBit = .bit0 → cell.getLsbD 8 = raw.getLsbD 0 ∧ cell.extractLsb' 0 7 = raw.extractLsb' 1 7)) ∧
    (∀ n : Nat, n < 50 →
      let bit := if n < 32 then (memRead b s 0x2A0).getLsbD n else (memRead b s 0x2A4).getLsbD (n - 32)
      (n < 6 → bit = r[9].getLsbD n) ∧
      (∀ k : Fin 5, ∀ j : Nat, j < 8 → n = 6 + 8 * k.val + j → bit = r[10 + k.val].getLsbD j) ∧
      (46 ≤ n → n < 49 → bit = r[15].getLsbD (n - 41)) ∧
      (n = 49 → bit = r[16].getLsbD 0)) ∧
    (memRead b s 0x2A4).extractLsb' 18 14 = 0

/-- R182 with R74: a write of a configuration register, at any of its four byte offsets, stores the register's field bits while idle: it reads back masked or sign-extended, every other register reads as before, and only the configuration changes. While busy it is ignored and sets `REJECT`. -/
def Obligations.ConfigWrite : Prop :=
  ∀ (b : BuildParams) (s : State) (off : BitVec 12) (v : Word), ∀ e ∈ cfgLayout,
    (off &&& 0xFFC).toNat = e.offset →
    (s.op = .idle → ∃ c : Cfg, memWrite off v s = .next { s with cfg := c } ∧
      memRead b { s with cfg := c } off = e.readBack v ∧
      ∀ o : BitVec 12, (o &&& 0xFFC).toNat ≠ e.offset → memRead b { s with cfg := c } o = memRead b s o) ∧
    (s.op ≠ .idle → memWrite off v s = .next { s with reject := true })

/-- R183, R184 and the read-only part of R72: a write of `FRAME[i]` while idle stores the low byte and nothing else, and sets `REJECT` while busy; a write of `STATUS` clears `DONE` and `REJECT` by its bits 1 and 3; a write of any other read-only register, view or unmapped offset changes nothing. -/
def Obligations.OtherWrites : Prop :=
  ∀ (s : State) (off : BitVec 12) (v : Word),
    (∀ i : Fin 35, (off &&& 0xFFC).toNat = 0x100 + 4 * i.val →
      (s.op = .idle → memWrite off v s = .next { s with frame := s.frame.set i.val (v.extractLsb' 0 8) }) ∧
      (s.op ≠ .idle → memWrite off v s = .next { s with reject := true })) ∧
    ((off &&& 0xFFC).toNat = 0x004 → memWrite off v s = .next { s with
      done := if v.getLsbD 1 then false else s.done
      reject := if v.getLsbD 3 then false else s.reject }) ∧
    ((8 ≤ off.toNat ∧ off.toNat < 0x20) ∨ (0x80 ≤ off.toNat ∧ off.toNat < 0x100) ∨ 0x18C ≤ off.toNat →
      memWrite off v s = .next s)

/-- R73 with R71: a host read changes nothing but the word the bus returns, offset bits 1:0 are ignored by reads and writes, and no access faults; an unmapped offset reads 0. What is read: each register of one number by its offset (R29, R30, R33-R43, R47-R54), and each byte of `FRAME`, `REC` and `RD_TEXT` zero-extended (R44, R45, R48). The bus's returned word is the model's field (log entry 4). -/
def Obligations.HostAccess : Prop :=
  ∀ (b : BuildParams) (s : State) (inp : StepInput) (off : BitVec 12) (v : Word),
    (inp.host = some (.read off) →
      phaseP2 inp s = .next { s with hostRdata := some (memRead Config.build s (off &&& 0xFFC)) }) ∧
    memRead b s off = memRead b s (off &&& 0xFFC) ∧ memWrite off v s = memWrite (off &&& 0xFFC) v s ∧
    (∃ t, memWrite off v s = .next t) ∧
    (∀ e ∈ readTable s, (off &&& 0xFFC).toNat = e.1 → memRead b s off = e.2) ∧
    (∀ i : Fin 35, (off &&& 0xFFC).toNat = 0x100 + 4 * i.val → memRead b s off = s.frame[i].setWidth 32) ∧
    (∀ i : Fin 17, (off &&& 0xFFC).toNat = 0x200 + 4 * i.val → memRead b s off = s.record[i].setWidth 32) ∧
    (∀ j : Fin 12, (off &&& 0xFFC).toNat = 0x310 + 4 * j.val → memRead b s off = s.rd.text[j].setWidth 32) ∧
    ((0x14 ≤ off.toNat ∧ off.toNat < 0x20) ∨ (0x80 ≤ off.toNat ∧ off.toNat < 0x100) ∨ (0x18C ≤ off.toNat ∧ off.toNat < 0x200) ∨
      (0x244 ≤ off.toNat ∧ off.toNat < 0x280) ∨ (0x2A8 ≤ off.toNat ∧ off.toNat < 0x300) ∨ (0x344 ≤ off.toNat ∧ off.toNat < 0x400) ∨
      0x444 ≤ off.toNat → memRead b s off = 0)

/-- The reset values (R29, R265): every offset of the window reads the table's value after reset, 0 where the table gives none, for every build; and the internal state and outputs are idle. -/
def Obligations.ResetValues : Prop :=
  (∀ (b : BuildParams) (off : BitVec 12),
    memRead b State.reset off = ((resetTable.find? (fun e => e.1 == (off &&& 0xFFC).toNat)).map Prod.snd).getD 0) ∧
  State.reset.op = .idle ∧ State.reset.calState = .idle ∧ State.reset.substep = .none ∧
  State.reset.rxbuf = Vector.replicate 35 0 ∧ State.reset.sampleBuf.length = 0 ∧ State.reset.supPending = false ∧
  State.reset.roundWrote = false ∧ State.reset.roundStop = false ∧ State.reset.corrExact = 0 ∧ State.reset.ppmExact = 0 ∧
  State.reset.txEn = false ∧ State.reset.supReqValid = false ∧ State.reset.supReqOp = 0 ∧ State.reset.supReqArg = 0 ∧
  State.reset.logValid = false ∧
  State.reset.logRow = { boardId := 0, refChannel := 0, temperature := 0, offset := 0, gain := 0, ppm := 0 }

/-! ### Whole steps -/

/-- The two resets as steps (R179, R245, R268, R269). In a step with `rst` = 1 every piece of the block's state takes its reset value, every other input of the step is lost, and a host read returns 0, whatever the state before. `SOFT_RESET` in P2 discards whatever P1 did in its step: from every state of the invariant, the step ends in the reset state. The inputs to come and the bus's returned word are the model's fields (log entries 1 and 4). -/
def Obligations.ResetSteps : Prop :=
  (∀ s : State, s.input.rst = true →
    (∀ off, s.input.host = some (.read off) →
      step s = .next { State.reset with inputs := s.inputs.tail, hostRdata := some 0 }) ∧
    ((∀ off, s.input.host ≠ some (.read off)) → step s = .next { State.reset with inputs := s.inputs.tail })) ∧
  (∀ (s : State) (off : BitVec 12), BlockInv s → s.input.rst = false → off.toNat < 4 →
    s.input.host = some (.write off 0x0000001F) → step s = .next { State.reset with inputs := s.inputs.tail })

/-- An idle block does nothing until the host writes (R26, R126, R267): whatever tick, byte, response or log_ready a step brings, the step without a host access changes only the one-step outputs and the model's list of inputs (log entries 1, 3 and 4). -/
def Obligations.IdleStep : Prop :=
  ∀ s : State, BlockInv s → s.op = .idle → s.input.rst = false → s.input.host = none →
    step s = .next { s with inputs := s.inputs.tail, supReqValid := false, hostRdata := none }

/-- The reset state meets the invariant. -/
def Obligations.ResetInvariant : Prop := BlockInv State.reset

/-- Every step keeps the invariant: from every state that meets it, whatever the environment presents, the next state meets it. -/
def Obligations.StepKeepsInvariant : Prop :=
  ∀ s t : State, BlockInv s → step s = .next t → BlockInv t

/-- The block has no stuck state of its own (R256): from every state of the invariant, whatever the environment presents, the step has a next state. -/
def Obligations.StepNeverStops : Prop :=
  ∀ s : State, BlockInv s → ∃ t, step s = .next t

/-- The calibration's transitions (R192-R198, R205, R215-R220): in a step in which the host writes neither a command nor `STATUS`, a running calibration moves only along the state machine's edges, and once an abort is pending it enters no other running state: it stays, fails, or is aborted with the state it left as its index. -/
def Obligations.CalibrationEdges : Prop :=
  ∀ s t : State, BlockInv s → s.op = .cal → s.input.rst = false →
    (∀ off v, s.input.host = some (.write off v) → 8 ≤ off.toNat) → step s = .next t →
    t.calState ∈ s.calState.edges ∧ t.stopReq = s.stopReq ∧
    (s.stopReq = .abort → t.calState = s.calState ∨ t.calState = .failed ∨
      (t.calState = .aborted ∧ t.errCode = .calAborted ∧ t.errIndex.toNat = s.calState.code.toNat ∧ t.op = .idle ∧ t.done = true))

/-- Within a run the counters never decrease, and the settle time strictly increases, up to its ceiling, whenever a rejected batch goes back to its set-point and at each round's end (R226, R202, R217). -/
def Obligations.CountersNeverDecrease : Prop :=
  ∀ s t : State, BlockInv s → s.op = .cal → phaseP1 s.input s.begin = .next t →
    s.ses.retryCount.toNat ≤ t.ses.retryCount.toNat ∧ s.ses.acqFails.toNat ≤ t.ses.acqFails.toNat ∧
    s.ses.round.toNat ≤ t.ses.round.toNat ∧ s.ses.settleMs.toNat ≤ t.ses.settleMs.toNat ∧
    ((s.calState = .measLow ∧ t.calState = .setLow) ∨ (s.calState = .measHigh ∧ t.calState = .setHigh) ∨
        (s.logValid = true ∧ t.logValid = false) →
      s.ses.settleMs.toNat < t.ses.settleMs.toNat ∨ t.ses.settleMs = BitVec.allOnes 32)

/-- The supply's traffic (R24, R114, R228): a step that leaves a request on the port leaves one of the seven of the table, with the argument of the table, from the state that issues it, with that one request outstanding and the timer restarted; every other step leaves none. -/
def Obligations.EmittedRequests : Prop :=
  ∀ s t : State, step s = .next t → t.supReqValid = true →
    t.op = .cal ∧ t.supPending = true ∧ t.tmr = 0 ∧
    ((t.calState = .readCal ∧ t.supReqArg = 0 ∧
        ((t.supReqOp = 1 ∧ t.substep = .tIdent) ∨ (t.supReqOp = 2 ∧ t.substep = .tRoff) ∨ (t.supReqOp = 3 ∧ t.substep = .tRgain))) ∨
      (t.calState = .setLow ∧ t.supReqArg = t.cfg.setLowArg ∧ t.supReqOp = 4 ∧ t.substep = .tSet) ∨
      (t.calState = .setHigh ∧ t.supReqArg = t.cfg.setHighArg ∧ t.supReqOp = 4 ∧ t.substep = .tSet) ∨
      (t.calState = .writeCal ∧
        ((t.supReqArg = t.ses.newOffset ∧ t.supReqOp = 5 ∧ t.substep = .tWoff) ∨
          (t.supReqArg = t.ses.newGain ∧ t.supReqOp = 6 ∧ t.substep = .tWgain))) ∨
      (t.calState = .logRound ∧ t.supReqArg = 0 ∧ t.supReqOp = 7 ∧ t.substep = .tTemp))

/-- The configuration changes only by reset, `SOFT_RESET`, or a host write of a configuration register in a step that P1 leaves idle (R29, R182, R283). -/
def Obligations.ConfigFrozen : Prop :=
  ∀ s t : State, step s = .next t → t.cfg ≠ s.cfg →
    s.input.rst = true ∨
    ∃ off v, s.input.host = some (.write off v) ∧
      ((off.toNat < 4 ∧ v = 0x0000001F) ∨ (0x20 ≤ off.toNat ∧ off.toNat < 0x80 ∧ t.op = .idle))
end

