-- ==== Sys2Proof/Laws/Arith.lean ====
section
/-! SUPPORT. The integer arithmetic against the rationals it stands for (spec/00_scope.md rule R8, spec/44_calibration.md rules R204-R212): one lemma per function. -/

namespace Sys2Proof.Machine

/-! ### Exact decimals -/

/-- In a unit no larger than its own, a decimal is an integer number of units. -/
theorem Dec.scaled_toRat (d : Dec) (e : ℤ) (h : e ≤ d.exp) : (d.scaled e : ℚ) * (10 : ℚ) ^ e = d.toRat := by
  unfold Dec.scaled Dec.toRat
  have hz : (10 : ℚ) ≠ 0 := by norm_num
  have hn : ((d.exp - e).toNat : ℤ) = d.exp - e := Int.toNat_of_nonneg (by omega)
  have hp : ((((10 ^ (d.exp - e).toNat : ℕ) : ℤ) : ℚ)) = (10 : ℚ) ^ (d.exp - e) := by
    conv_rhs => rw [← hn, zpow_natCast]
    push_cast
    rfl
  push_cast [Int.cast_mul] at *
  rw [hp, mul_assoc, ← zpow_add₀ hz]
  congr 2; omega

theorem Dec.common_le_left (a b : Dec) : a.common b ≤ a.exp := min_le_left _ _

theorem Dec.common_le_right (a b : Dec) : a.common b ≤ b.exp := min_le_right _ _

theorem ten_zpow_pos (e : ℤ) : (0 : ℚ) < (10 : ℚ) ^ e := zpow_pos (by norm_num) e

/-- Subtraction of decimals is exact. -/
theorem Dec.sub_toRat (a b : Dec) : (a.sub b).toRat = a.toRat - b.toRat := by
  rw [← a.scaled_toRat _ (a.common_le_left b), ← b.scaled_toRat _ (a.common_le_right b)]
  simp [Dec.sub, Dec.toRat, sub_mul]

/-- Multiplication of decimals is exact. -/
theorem Dec.mul_toRat (a b : Dec) : (a.mul b).toRat = a.toRat * b.toRat := by
  simp only [Dec.mul, Dec.toRat]
  rw [zpow_add₀ (by norm_num : (10 : ℚ) ≠ 0)]
  push_cast
  ring

/-- Comparison of decimals compares values. -/
theorem Dec.le_iff_toRat (a b : Dec) : a.le b = true ↔ a.toRat ≤ b.toRat := by
  rw [← a.scaled_toRat _ (a.common_le_left b), ← b.scaled_toRat _ (a.common_le_right b),
    mul_le_mul_iff_left₀ (ten_zpow_pos _)]
  simp [Dec.le]

/-- Equality of decimals is equality of values. -/
theorem Dec.eqv_iff_toRat (a b : Dec) : a.eqv b = true ↔ a.toRat = b.toRat := by
  rw [← a.scaled_toRat _ (a.common_le_left b), ← b.scaled_toRat _ (a.common_le_right b),
    mul_left_inj' (ten_zpow_pos _).ne']
  simp [Dec.eqv]

/-- The quotient of two decimals is exact. -/
theorem Dec.ratio_toRat (a b : Dec) : (a.ratio b).toRat = a.toRat / b.toRat := by
  rw [← a.scaled_toRat _ (a.common_le_left b), ← b.scaled_toRat _ (a.common_le_right b),
    mul_div_mul_right _ _ (ten_zpow_pos _).ne']
  rfl

/-- The quotient's denominator is 0 only for a divisor of value 0. -/
theorem Dec.ratio_den_ne_zero (a b : Dec) (h : b.toRat ≠ 0) : (a.ratio b).den ≠ 0 := by
  intro hd
  apply h
  rw [← b.scaled_toRat _ (a.common_le_right b)]
  have : b.scaled (a.common b) = 0 := hd
  rw [this]; simp

/-! ### The sign of a quotient -/

/-- `Ratio.neg` is the sign of the quotient. -/
theorem Ratio.neg_iff_toRat (q : Ratio) (h : q.den ≠ 0) : q.neg = true ↔ q.toRat < 0 := by
  have hd : (q.den : ℚ) ≠ 0 := Int.cast_ne_zero.mpr h
  unfold Ratio.neg Ratio.toRat
  rw [div_neg_iff]
  simp only [Bool.and_eq_true, decide_eq_true_eq, bne_iff_ne, ne_eq, Int.cast_pos, Int.cast_lt_zero, decide_eq_decide]
  omega

/-- The magnitude of a quotient is the quotient of the magnitudes. -/
theorem Ratio.abs_toRat (q : Ratio) : |q.toRat| = (q.num.natAbs : ℚ) / (q.den.natAbs : ℚ) := by
  rw [Ratio.toRat, abs_div, Nat.cast_natAbs, Nat.cast_natAbs, Int.cast_abs, Int.cast_abs]

/-! ### The integer square root -/

/-- With enough fuel, the digits of `isqrtAux` are the square root's. -/
theorem isqrtAux_spec (fuel n : ℕ) (h : n < 4 ^ fuel) :
    isqrtAux fuel n * isqrtAux fuel n ≤ n ∧ n < (isqrtAux fuel n + 1) * (isqrtAux fuel n + 1) := by
  induction fuel generalizing n with
  | zero => simp at h; simp [isqrtAux, h]
  | succ k ih =>
    have hk : n / 4 < 4 ^ k := by rw [pow_succ] at h; omega
    obtain ⟨hl, hu⟩ := ih (n / 4) hk
    simp only [isqrtAux]
    generalize isqrtAux k (n / 4) = r at *
    split
    · constructor
      · assumption
      · nlinarith [Nat.div_add_mod n 4, Nat.mod_lt n (by norm_num : 0 < 4)]
    · constructor
      · have : n / 4 * 4 ≤ n := Nat.div_mul_le_self n 4
        nlinarith
      · omega

/-- `isqrt n` is the largest r with r² ≤ n. -/
theorem isqrt_spec (n : ℕ) : isqrt n * isqrt n ≤ n ∧ n < (isqrt n + 1) * (isqrt n + 1) := by
  apply isqrtAux_spec
  calc n < 2 ^ (n.log2 + 1) := Nat.lt_log2_self
    _ ≤ 4 ^ (n.log2 + 1) := Nat.pow_le_pow_left (by norm_num) _

/-- A square is at most n exactly when its root is at most `isqrt n`. -/
theorem sq_le_iff_le_isqrt (m n : ℕ) : m * m ≤ n ↔ m ≤ isqrt n := by
  obtain ⟨hl, hu⟩ := isqrt_spec n
  constructor
  · intro h
    by_contra hc
    have : isqrt n + 1 ≤ m := by omega
    nlinarith
  · intro h
    nlinarith

/-! ### Saturation -/

/-- `sat32` clamps to the s32 range. -/
theorem sat32_eq_clamp (z : ℤ) : sat32 z = BitVec.ofInt 32 (max (-(2 ^ 31)) (min (2 ^ 31 - 1) z)) := by
  unfold sat32
  split_ifs with h1 h2
  · congr 1; omega
  · congr 1; omega
  · congr 1; omega

/-- A saturating counter counts by one below its ceiling. -/
theorem satInc_toNat {w : ℕ} (v : BitVec w) :
    (satInc v).toNat = if v = BitVec.allOnes w then v.toNat else v.toNat + 1 := by
  unfold satInc
  split_ifs with h
  · rfl
  · have hlt := v.isLt
    have hne : v.toNat ≠ 2 ^ w - 1 := fun e => h (BitVec.eq_of_toNat_eq (by rw [e, BitVec.toNat_allOnes]))
    rw [BitVec.toNat_add]
    by_cases hw : w = 0
    · subst hw; simp at hne; omega
    · have h1 : (1 : BitVec w).toNat = 1 := by
        rw [BitVec.ofNat_eq_ofNat, BitVec.toNat_ofNat]
        exact Nat.mod_eq_of_lt (Nat.one_lt_two_pow hw)
      rw [h1]
      exact Nat.mod_eq_of_lt (by omega)

/-- A saturating counter never falls. -/
theorem le_satInc {w : ℕ} (v : BitVec w) : v.toNat ≤ (satInc v).toNat := by
  rw [satInc_toNat]; split_ifs <;> omega

/-- `grow` in numbers. -/
theorem grow_toNat (s : Word) : (grow s).toNat = min (2 ^ 32 - 1) (s.toNat + (s.toNat + 3) / 4) := by
  unfold grow
  rw [BitVec.toNat_ofNat]
  exact Nat.mod_eq_of_lt (by omega)

/-- `grow` of a nonzero time is nonzero. -/
theorem grow_ne_zero (s : Word) (h : s ≠ 0) : grow s ≠ 0 := by
  have hs : s.toNat ≠ 0 := fun e => h (BitVec.eq_of_toNat_eq e)
  intro e
  have hg := congrArg BitVec.toNat e
  rw [grow_toNat] at hg
  have hz : (0 : Word).toNat = 0 := rfl
  rw [hz] at hg
  omega

/-- An integer in the s32 range survives its register. -/
theorem toInt_ofInt32 (z : ℤ) (hl : -(2 ^ 31) ≤ z) (hu : z < 2 ^ 31) : (BitVec.ofInt 32 z).toInt = z := by
  rw [BitVec.toInt_ofInt, Int.bmod_def]
  split <;> omega

end Sys2Proof.Machine
end

