-- ==== Sys2Proof/Laws/Batch.lean ====
section
/-! SUPPORT. The batch's stable sort (spec/44_calibration.md rule R200): it permutes the samples, and orders them by value and then by arrival. -/

namespace Sys2Proof.Laws

open Sys2Proof.Machine

theorem insertSample_perm (x : Sample) (l : List Sample) : (insertSample x l).Perm (x :: l) := by
  induction l with
  | nil => exact List.Perm.refl _
  | cons y r ih =>
    unfold insertSample
    split
    · exact List.Perm.refl _
    · exact (List.Perm.cons y ih).trans (List.Perm.swap x y r)

/-- The sort loses no sample and invents none. -/
theorem sortSamples_perm (l : List Sample) : (sortSamples l).Perm l := by
  induction l with
  | nil => exact List.Perm.refl _
  | cons x r ih => exact (insertSample_perm x _).trans (List.Perm.cons x ih)

/-- The sort's order, over the rationals: by value, equal values by arrival. -/
def NotAfter (a b : Sample) : Prop :=
  a.value.toRat < b.value.toRat ∨ (a.value.toRat = b.value.toRat ∧ a.arrival ≤ b.arrival)

theorem before_iff (a b : Sample) : a.before b = true ↔ NotAfter a b := by
  unfold Sample.before NotAfter
  split_ifs with h
  · rw [Dec.eqv_iff_toRat] at h; simp [h]
  · rw [Dec.eqv_iff_toRat] at h; rw [Dec.le_iff_toRat]
    constructor
    · intro g; exact .inl (lt_of_le_of_ne g h)
    · rintro (g | g)
      · exact g.le
      · exact absurd g.1 h

theorem NotAfter.trans {a b c : Sample} (h : NotAfter a b) (g : NotAfter b c) : NotAfter a c := by
  unfold NotAfter at *
  rcases h with h | h <;> rcases g with g | g
  · exact .inl (h.trans g)
  · exact .inl (g.1 ▸ h)
  · exact .inl (h.1 ▸ g)
  · exact .inr ⟨h.1.trans g.1, h.2.trans g.2⟩

theorem NotAfter.total {a b : Sample} (h : ¬ NotAfter a b) : NotAfter b a := by
  unfold NotAfter at *
  push Not at h
  rcases lt_or_eq_of_le h.1 with g | g
  · exact .inl g
  · exact .inr ⟨g, (h.2 g.symm).le⟩

theorem insertSample_sorted (x : Sample) (l : List Sample) (h : l.Pairwise NotAfter) :
    (insertSample x l).Pairwise NotAfter := by
  induction l with
  | nil => simp [insertSample]
  | cons y r ih =>
    unfold insertSample
    rw [List.pairwise_cons] at h
    split
    · rename_i hb
      rw [before_iff] at hb
      rw [List.pairwise_cons]
      refine ⟨fun z hz => ?_, List.pairwise_cons.mpr h⟩
      rcases List.mem_cons.mp hz with rfl | hz
      · exact hb
      · exact hb.trans (h.1 z hz)
    · rename_i hb
      rw [before_iff] at hb
      rw [List.pairwise_cons]
      refine ⟨fun z hz => ?_, ih h.2⟩
      have := (insertSample_perm x r).mem_iff.mp hz
      rcases List.mem_cons.mp this with rfl | hz
      · exact NotAfter.total hb
      · exact h.1 z hz

/-- The sorted list is in order. -/
theorem sortSamples_sorted (l : List Sample) : (sortSamples l).Pairwise NotAfter := by
  induction l with
  | nil => exact List.Pairwise.nil
  | cons x r ih => exact insertSample_sorted x _ ih

/-- A batch of at least one sample has a median and two ends. -/
theorem batchOf_isSome (buf : List Sample) (h : buf.length ≠ 0) : (batchOf buf.length buf).isSome := by
  have hl : (sortSamples buf).length = buf.length := (sortSamples_perm buf).length_eq
  unfold batchOf
  have h1 : ∃ a, (sortSamples buf).head? = some a := by
    cases e : sortSamples buf with
    | nil => simp [e] at hl; omega
    | cons a r => exact ⟨a, rfl⟩
  have h2 : ∃ a, (sortSamples buf).getLast? = some a := by
    cases e : sortSamples buf with
    | nil => simp [e] at hl; omega
    | cons a r => exact ⟨_, List.getLast?_eq_getLast_of_ne_nil (by simp)⟩
  have h3 : ∃ a, (sortSamples buf)[(buf.length - 1) / 2]? = some a := ⟨_, List.getElem?_eq_getElem (by omega)⟩
  obtain ⟨a, ha⟩ := h1; obtain ⟨b, hb⟩ := h2; obtain ⟨c, hc⟩ := h3
  rw [ha, hb, hc]; rfl

end Sys2Proof.Laws
end

