-- ==== Sys2Proof/Laws/Decode.lean ====
section
/-! SUPPORT. What decoding a word of each port can give (spec/30_encoding.md rules R90-R97, R114). -/

namespace Sys2Proof.Laws

/-- A choice between two values gave `c`, so one of them did. -/
theorem ite_eq_or {p : Prop} [Decidable p] {α : Type} {a b c : α} (h : (if p then a else b) = c) : a = c ∨ b = c := by
  by_cases hp : p
  · exact .inl (by rw [if_pos hp] at h; exact h)
  · exact .inr (by rw [if_neg hp] at h; exact h)

/-- An assigned opcode decodes to one of the eleven commands (R92). -/
theorem commandOfOpcode_cases {v : Byte} {i : Instr} (h : commandOfOpcode v = .ok i) :
    i = .nop ∨ i = .acquire ∨ i = .decode ∨ i = .map ∨ i = .sample ∨ i = .calStart ∨ i = .calStopKeep ∨
      i = .calStopAdjust ∨ i = .calAbort ∨ i = .clear ∨ i = .softReset := by
  unfold commandOfOpcode at h
  iterate 11
    refine (ite_eq_or h).elim (fun e => by cases e; simp) (fun g => ?_)
    clear h; rename' g => h
  cases h

/-- When a command word decodes, and to what: `RSV` is 0, and the opcode alone tells (R91). -/
theorem decode_command_iff (v : Word) (i : Instr) :
    decode (.command v) = .ok i ↔ v.extractLsb' 8 24 = 0 ∧ commandOfOpcode (v.extractLsb' 0 8) = .ok i := by
  unfold decode decodeCommand
  by_cases h : v.extractLsb' 8 24 = 0
  · simp only [h, ne_eq, not_true_eq_false, if_false, true_and]
  · simp only [h, ne_eq, not_false_eq_true, if_true, false_and, iff_false]
    intro e; cases e

/-- A command word decodes to one of the eleven commands. -/
theorem decode_command_cases {v : Word} {i : Instr} (h : decode (.command v) = .ok i) :
    i = .nop ∨ i = .acquire ∨ i = .decode ∨ i = .map ∨ i = .sample ∨ i = .calStart ∨ i = .calStopKeep ∨
      i = .calStopAdjust ∨ i = .calAbort ∨ i = .clear ∨ i = .softReset :=
  commandOfOpcode_cases ((decode_command_iff v i).mp h).2

/-- A transport byte that decodes is the symbol of its nibble (R95). -/
theorem decode_transport_cases {b : Byte} {i : Instr} (h : decode (.transport b) = .ok i) : i = .symbol (nibbleOf b) := by
  unfold decode decodeTransport at h
  simp only at h
  split_ifs at h
  cases h; rfl

/-- The symbol of a valid byte's nibble is the byte (R96). -/
theorem symbolOf_nibbleOf : ∀ b : Byte, validSymbol b = true → symbolOf (nibbleOf b) = b := by decide +kernel

/-- A valid symbol is one the decoder accepts (R95). -/
theorem validSymbol_iff_decodes : ∀ b : Byte, validSymbol b = (decode (.transport b)).toOption.isSome := by decide +kernel

/-- The nibble of a nibble's symbol is the nibble (R96). -/
theorem nibbleOf_symbolOf : ∀ n : BitVec 4, nibbleOf (symbolOf n) = n := by decide

/-- The symbol of a nibble is valid (R96). -/
theorem validSymbol_symbolOf : ∀ n : BitVec 4, validSymbol (symbolOf n) = true := by decide

/-- A word whose `RSV` is 0 is its opcode (R90). -/
theorem word_of_opcode (v : Word) (h : v.extractLsb' 8 24 = 0) : v = (v.extractLsb' 0 8).setWidth 32 := by
  apply BitVec.eq_of_getLsbD_eq
  intro i hi
  by_cases h8 : i < 8
  · simp [h8, hi, -BitVec.getLsbD_eq_getElem]
  · have := congrArg (fun x => BitVec.getLsbD x (i - 8)) h
    simp only [BitVec.getLsbD_extractLsb', show 8 + (i - 8) = i by omega] at this
    simp [h8, -BitVec.getLsbD_eq_getElem]
    simpa [show i - 8 < 24 by omega, -BitVec.getLsbD_eq_getElem] using this

end Sys2Proof.Laws
end

