-- ==== Sys2Proof/Laws/State.lean ====
section
/-! SUPPORT. The small lemmas of the state: one per field for the shared operations that branch (the operations that are one record update have theirs from @[simps] beside the definition). -/

namespace Sys2Proof.Machine

/-! ### countTick changes TMR only -/

@[simp] theorem countTick_op (tick : Bool) (s : State) : (countTick tick s).op = s.op := by
  unfold countTick; split <;> rfl

@[simp] theorem countTick_calState (tick : Bool) (s : State) : (countTick tick s).calState = s.calState := by
  unfold countTick; split <;> rfl

@[simp] theorem countTick_substep (tick : Bool) (s : State) : (countTick tick s).substep = s.substep := by
  unfold countTick; split <;> rfl

@[simp] theorem countTick_rxcnt (tick : Bool) (s : State) : (countTick tick s).rxcnt = s.rxcnt := by
  unfold countTick; split <;> rfl

@[simp] theorem countTick_rxbuf (tick : Bool) (s : State) : (countTick tick s).rxbuf = s.rxbuf := by
  unfold countTick; split <;> rfl

@[simp] theorem countTick_sampleBuf (tick : Bool) (s : State) : (countTick tick s).sampleBuf = s.sampleBuf := by
  unfold countTick; split <;> rfl

@[simp] theorem countTick_supPending (tick : Bool) (s : State) : (countTick tick s).supPending = s.supPending := by
  unfold countTick; split <;> rfl

@[simp] theorem countTick_done (tick : Bool) (s : State) : (countTick tick s).done = s.done := by
  unfold countTick; split <;> rfl

@[simp] theorem countTick_reject (tick : Bool) (s : State) : (countTick tick s).reject = s.reject := by
  unfold countTick; split <;> rfl

@[simp] theorem countTick_recValid (tick : Bool) (s : State) : (countTick tick s).recValid = s.recValid := by
  unfold countTick; split <;> rfl

@[simp] theorem countTick_readValid (tick : Bool) (s : State) : (countTick tick s).readValid = s.readValid := by
  unfold countTick; split <;> rfl

@[simp] theorem countTick_errCode (tick : Bool) (s : State) : (countTick tick s).errCode = s.errCode := by
  unfold countTick; split <;> rfl

@[simp] theorem countTick_errIndex (tick : Bool) (s : State) : (countTick tick s).errIndex = s.errIndex := by
  unfold countTick; split <;> rfl

@[simp] theorem countTick_stopReq (tick : Bool) (s : State) : (countTick tick s).stopReq = s.stopReq := by
  unfold countTick; split <;> rfl

@[simp] theorem countTick_batchRetry (tick : Bool) (s : State) : (countTick tick s).batchRetry = s.batchRetry := by
  unfold countTick; split <;> rfl

@[simp] theorem countTick_cfg (tick : Bool) (s : State) : (countTick tick s).cfg = s.cfg := by
  unfold countTick; split <;> rfl

@[simp] theorem countTick_frame (tick : Bool) (s : State) : (countTick tick s).frame = s.frame := by
  unfold countTick; split <;> rfl

@[simp] theorem countTick_record (tick : Bool) (s : State) : (countTick tick s).record = s.record := by
  unfold countTick; split <;> rfl

@[simp] theorem countTick_rd (tick : Bool) (s : State) : (countTick tick s).rd = s.rd := by
  unfold countTick; split <;> rfl

@[simp] theorem countTick_ses (tick : Bool) (s : State) : (countTick tick s).ses = s.ses := by
  unfold countTick; split <;> rfl

@[simp] theorem countTick_roundWrote (tick : Bool) (s : State) : (countTick tick s).roundWrote = s.roundWrote := by
  unfold countTick; split <;> rfl

@[simp] theorem countTick_roundStop (tick : Bool) (s : State) : (countTick tick s).roundStop = s.roundStop := by
  unfold countTick; split <;> rfl

@[simp] theorem countTick_corrExact (tick : Bool) (s : State) : (countTick tick s).corrExact = s.corrExact := by
  unfold countTick; split <;> rfl

@[simp] theorem countTick_ppmExact (tick : Bool) (s : State) : (countTick tick s).ppmExact = s.ppmExact := by
  unfold countTick; split <;> rfl

@[simp] theorem countTick_txEn (tick : Bool) (s : State) : (countTick tick s).txEn = s.txEn := by
  unfold countTick; split <;> rfl

@[simp] theorem countTick_supReqValid (tick : Bool) (s : State) : (countTick tick s).supReqValid = s.supReqValid := by
  unfold countTick; split <;> rfl

@[simp] theorem countTick_supReqOp (tick : Bool) (s : State) : (countTick tick s).supReqOp = s.supReqOp := by
  unfold countTick; split <;> rfl

@[simp] theorem countTick_supReqArg (tick : Bool) (s : State) : (countTick tick s).supReqArg = s.supReqArg := by
  unfold countTick; split <;> rfl

@[simp] theorem countTick_logValid (tick : Bool) (s : State) : (countTick tick s).logValid = s.logValid := by
  unfold countTick; split <;> rfl

@[simp] theorem countTick_logRow (tick : Bool) (s : State) : (countTick tick s).logRow = s.logRow := by
  unfold countTick; split <;> rfl

@[simp] theorem countTick_hostRdata (tick : Bool) (s : State) : (countTick tick s).hostRdata = s.hostRdata := by
  unfold countTick; split <;> rfl

@[simp] theorem countTick_inputs (tick : Bool) (s : State) : (countTick tick s).inputs = s.inputs := by
  unfold countTick; split <;> rfl

/-! ### pushByte changes RXBUF and RXCNT only -/

@[simp] theorem pushByte_op (b : Byte) (s : State) : (s.pushByte b).op = s.op := by
  unfold State.pushByte; split <;> rfl

@[simp] theorem pushByte_calState (b : Byte) (s : State) : (s.pushByte b).calState = s.calState := by
  unfold State.pushByte; split <;> rfl

@[simp] theorem pushByte_substep (b : Byte) (s : State) : (s.pushByte b).substep = s.substep := by
  unfold State.pushByte; split <;> rfl

@[simp] theorem pushByte_tmr (b : Byte) (s : State) : (s.pushByte b).tmr = s.tmr := by
  unfold State.pushByte; split <;> rfl

@[simp] theorem pushByte_sampleBuf (b : Byte) (s : State) : (s.pushByte b).sampleBuf = s.sampleBuf := by
  unfold State.pushByte; split <;> rfl

@[simp] theorem pushByte_supPending (b : Byte) (s : State) : (s.pushByte b).supPending = s.supPending := by
  unfold State.pushByte; split <;> rfl

@[simp] theorem pushByte_done (b : Byte) (s : State) : (s.pushByte b).done = s.done := by
  unfold State.pushByte; split <;> rfl

@[simp] theorem pushByte_reject (b : Byte) (s : State) : (s.pushByte b).reject = s.reject := by
  unfold State.pushByte; split <;> rfl

@[simp] theorem pushByte_recValid (b : Byte) (s : State) : (s.pushByte b).recValid = s.recValid := by
  unfold State.pushByte; split <;> rfl

@[simp] theorem pushByte_readValid (b : Byte) (s : State) : (s.pushByte b).readValid = s.readValid := by
  unfold State.pushByte; split <;> rfl

@[simp] theorem pushByte_errCode (b : Byte) (s : State) : (s.pushByte b).errCode = s.errCode := by
  unfold State.pushByte; split <;> rfl

@[simp] theorem pushByte_errIndex (b : Byte) (s : State) : (s.pushByte b).errIndex = s.errIndex := by
  unfold State.pushByte; split <;> rfl

@[simp] theorem pushByte_stopReq (b : Byte) (s : State) : (s.pushByte b).stopReq = s.stopReq := by
  unfold State.pushByte; split <;> rfl

@[simp] theorem pushByte_batchRetry (b : Byte) (s : State) : (s.pushByte b).batchRetry = s.batchRetry := by
  unfold State.pushByte; split <;> rfl

@[simp] theorem pushByte_cfg (b : Byte) (s : State) : (s.pushByte b).cfg = s.cfg := by
  unfold State.pushByte; split <;> rfl

@[simp] theorem pushByte_frame (b : Byte) (s : State) : (s.pushByte b).frame = s.frame := by
  unfold State.pushByte; split <;> rfl

@[simp] theorem pushByte_record (b : Byte) (s : State) : (s.pushByte b).record = s.record := by
  unfold State.pushByte; split <;> rfl

@[simp] theorem pushByte_rd (b : Byte) (s : State) : (s.pushByte b).rd = s.rd := by
  unfold State.pushByte; split <;> rfl

@[simp] theorem pushByte_ses (b : Byte) (s : State) : (s.pushByte b).ses = s.ses := by
  unfold State.pushByte; split <;> rfl

@[simp] theorem pushByte_roundWrote (b : Byte) (s : State) : (s.pushByte b).roundWrote = s.roundWrote := by
  unfold State.pushByte; split <;> rfl

@[simp] theorem pushByte_roundStop (b : Byte) (s : State) : (s.pushByte b).roundStop = s.roundStop := by
  unfold State.pushByte; split <;> rfl

@[simp] theorem pushByte_corrExact (b : Byte) (s : State) : (s.pushByte b).corrExact = s.corrExact := by
  unfold State.pushByte; split <;> rfl

@[simp] theorem pushByte_ppmExact (b : Byte) (s : State) : (s.pushByte b).ppmExact = s.ppmExact := by
  unfold State.pushByte; split <;> rfl

@[simp] theorem pushByte_txEn (b : Byte) (s : State) : (s.pushByte b).txEn = s.txEn := by
  unfold State.pushByte; split <;> rfl

@[simp] theorem pushByte_supReqValid (b : Byte) (s : State) : (s.pushByte b).supReqValid = s.supReqValid := by
  unfold State.pushByte; split <;> rfl

@[simp] theorem pushByte_supReqOp (b : Byte) (s : State) : (s.pushByte b).supReqOp = s.supReqOp := by
  unfold State.pushByte; split <;> rfl

@[simp] theorem pushByte_supReqArg (b : Byte) (s : State) : (s.pushByte b).supReqArg = s.supReqArg := by
  unfold State.pushByte; split <;> rfl

@[simp] theorem pushByte_logValid (b : Byte) (s : State) : (s.pushByte b).logValid = s.logValid := by
  unfold State.pushByte; split <;> rfl

@[simp] theorem pushByte_logRow (b : Byte) (s : State) : (s.pushByte b).logRow = s.logRow := by
  unfold State.pushByte; split <;> rfl

@[simp] theorem pushByte_hostRdata (b : Byte) (s : State) : (s.pushByte b).hostRdata = s.hostRdata := by
  unfold State.pushByte; split <;> rfl

@[simp] theorem pushByte_inputs (b : Byte) (s : State) : (s.pushByte b).inputs = s.inputs := by
  unfold State.pushByte; split <;> rfl

/-! ### capture changes RXBUF and RXCNT only -/

@[simp] theorem capture_op (b : Byte) (s : State) : (capture b s).op = s.op := by
  unfold capture; split <;> simp

@[simp] theorem capture_calState (b : Byte) (s : State) : (capture b s).calState = s.calState := by
  unfold capture; split <;> simp

@[simp] theorem capture_substep (b : Byte) (s : State) : (capture b s).substep = s.substep := by
  unfold capture; split <;> simp

@[simp] theorem capture_tmr (b : Byte) (s : State) : (capture b s).tmr = s.tmr := by
  unfold capture; split <;> simp

@[simp] theorem capture_sampleBuf (b : Byte) (s : State) : (capture b s).sampleBuf = s.sampleBuf := by
  unfold capture; split <;> simp

@[simp] theorem capture_supPending (b : Byte) (s : State) : (capture b s).supPending = s.supPending := by
  unfold capture; split <;> simp

@[simp] theorem capture_done (b : Byte) (s : State) : (capture b s).done = s.done := by
  unfold capture; split <;> simp

@[simp] theorem capture_reject (b : Byte) (s : State) : (capture b s).reject = s.reject := by
  unfold capture; split <;> simp

@[simp] theorem capture_recValid (b : Byte) (s : State) : (capture b s).recValid = s.recValid := by
  unfold capture; split <;> simp

@[simp] theorem capture_readValid (b : Byte) (s : State) : (capture b s).readValid = s.readValid := by
  unfold capture; split <;> simp

@[simp] theorem capture_errCode (b : Byte) (s : State) : (capture b s).errCode = s.errCode := by
  unfold capture; split <;> simp

@[simp] theorem capture_errIndex (b : Byte) (s : State) : (capture b s).errIndex = s.errIndex := by
  unfold capture; split <;> simp

@[simp] theorem capture_stopReq (b : Byte) (s : State) : (capture b s).stopReq = s.stopReq := by
  unfold capture; split <;> simp

@[simp] theorem capture_batchRetry (b : Byte) (s : State) : (capture b s).batchRetry = s.batchRetry := by
  unfold capture; split <;> simp

@[simp] theorem capture_cfg (b : Byte) (s : State) : (capture b s).cfg = s.cfg := by
  unfold capture; split <;> simp

@[simp] theorem capture_frame (b : Byte) (s : State) : (capture b s).frame = s.frame := by
  unfold capture; split <;> simp

@[simp] theorem capture_record (b : Byte) (s : State) : (capture b s).record = s.record := by
  unfold capture; split <;> simp

@[simp] theorem capture_rd (b : Byte) (s : State) : (capture b s).rd = s.rd := by
  unfold capture; split <;> simp

@[simp] theorem capture_ses (b : Byte) (s : State) : (capture b s).ses = s.ses := by
  unfold capture; split <;> simp

@[simp] theorem capture_roundWrote (b : Byte) (s : State) : (capture b s).roundWrote = s.roundWrote := by
  unfold capture; split <;> simp

@[simp] theorem capture_roundStop (b : Byte) (s : State) : (capture b s).roundStop = s.roundStop := by
  unfold capture; split <;> simp

@[simp] theorem capture_corrExact (b : Byte) (s : State) : (capture b s).corrExact = s.corrExact := by
  unfold capture; split <;> simp

@[simp] theorem capture_ppmExact (b : Byte) (s : State) : (capture b s).ppmExact = s.ppmExact := by
  unfold capture; split <;> simp

@[simp] theorem capture_txEn (b : Byte) (s : State) : (capture b s).txEn = s.txEn := by
  unfold capture; split <;> simp

@[simp] theorem capture_supReqValid (b : Byte) (s : State) : (capture b s).supReqValid = s.supReqValid := by
  unfold capture; split <;> simp

@[simp] theorem capture_supReqOp (b : Byte) (s : State) : (capture b s).supReqOp = s.supReqOp := by
  unfold capture; split <;> simp

@[simp] theorem capture_supReqArg (b : Byte) (s : State) : (capture b s).supReqArg = s.supReqArg := by
  unfold capture; split <;> simp

@[simp] theorem capture_logValid (b : Byte) (s : State) : (capture b s).logValid = s.logValid := by
  unfold capture; split <;> simp

@[simp] theorem capture_logRow (b : Byte) (s : State) : (capture b s).logRow = s.logRow := by
  unfold capture; split <;> simp

@[simp] theorem capture_hostRdata (b : Byte) (s : State) : (capture b s).hostRdata = s.hostRdata := by
  unfold capture; split <;> simp

@[simp] theorem capture_inputs (b : Byte) (s : State) : (capture b s).inputs = s.inputs := by
  unfold capture; split <;> simp

/-! ### raiseError: the fields no error touches -/

@[simp] theorem raiseError_tmr (e : ErrCode) (i : BitVec 6) (s : State) : (raiseError e i s).tmr = s.tmr := by
  unfold raiseError; split <;> rfl

@[simp] theorem raiseError_rxcnt (e : ErrCode) (i : BitVec 6) (s : State) : (raiseError e i s).rxcnt = s.rxcnt := by
  unfold raiseError; split <;> rfl

@[simp] theorem raiseError_rxbuf (e : ErrCode) (i : BitVec 6) (s : State) : (raiseError e i s).rxbuf = s.rxbuf := by
  unfold raiseError; split <;> rfl

@[simp] theorem raiseError_sampleBuf (e : ErrCode) (i : BitVec 6) (s : State) : (raiseError e i s).sampleBuf = s.sampleBuf := by
  unfold raiseError; split <;> rfl

@[simp] theorem raiseError_reject (e : ErrCode) (i : BitVec 6) (s : State) : (raiseError e i s).reject = s.reject := by
  unfold raiseError; split <;> rfl

@[simp] theorem raiseError_recValid (e : ErrCode) (i : BitVec 6) (s : State) : (raiseError e i s).recValid = s.recValid := by
  unfold raiseError; split <;> rfl

@[simp] theorem raiseError_readValid (e : ErrCode) (i : BitVec 6) (s : State) : (raiseError e i s).readValid = s.readValid := by
  unfold raiseError; split <;> rfl

@[simp] theorem raiseError_stopReq (e : ErrCode) (i : BitVec 6) (s : State) : (raiseError e i s).stopReq = s.stopReq := by
  unfold raiseError; split <;> rfl

@[simp] theorem raiseError_batchRetry (e : ErrCode) (i : BitVec 6) (s : State) : (raiseError e i s).batchRetry = s.batchRetry := by
  unfold raiseError; split <;> rfl

@[simp] theorem raiseError_cfg (e : ErrCode) (i : BitVec 6) (s : State) : (raiseError e i s).cfg = s.cfg := by
  unfold raiseError; split <;> rfl

@[simp] theorem raiseError_frame (e : ErrCode) (i : BitVec 6) (s : State) : (raiseError e i s).frame = s.frame := by
  unfold raiseError; split <;> rfl

@[simp] theorem raiseError_record (e : ErrCode) (i : BitVec 6) (s : State) : (raiseError e i s).record = s.record := by
  unfold raiseError; split <;> rfl

@[simp] theorem raiseError_rd (e : ErrCode) (i : BitVec 6) (s : State) : (raiseError e i s).rd = s.rd := by
  unfold raiseError; split <;> rfl

@[simp] theorem raiseError_ses (e : ErrCode) (i : BitVec 6) (s : State) : (raiseError e i s).ses = s.ses := by
  unfold raiseError; split <;> rfl

@[simp] theorem raiseError_roundWrote (e : ErrCode) (i : BitVec 6) (s : State) : (raiseError e i s).roundWrote = s.roundWrote := by
  unfold raiseError; split <;> rfl

@[simp] theorem raiseError_roundStop (e : ErrCode) (i : BitVec 6) (s : State) : (raiseError e i s).roundStop = s.roundStop := by
  unfold raiseError; split <;> rfl

@[simp] theorem raiseError_corrExact (e : ErrCode) (i : BitVec 6) (s : State) : (raiseError e i s).corrExact = s.corrExact := by
  unfold raiseError; split <;> rfl

@[simp] theorem raiseError_ppmExact (e : ErrCode) (i : BitVec 6) (s : State) : (raiseError e i s).ppmExact = s.ppmExact := by
  unfold raiseError; split <;> rfl

@[simp] theorem raiseError_supReqValid (e : ErrCode) (i : BitVec 6) (s : State) : (raiseError e i s).supReqValid = s.supReqValid := by
  unfold raiseError; split <;> rfl

@[simp] theorem raiseError_supReqOp (e : ErrCode) (i : BitVec 6) (s : State) : (raiseError e i s).supReqOp = s.supReqOp := by
  unfold raiseError; split <;> rfl

@[simp] theorem raiseError_supReqArg (e : ErrCode) (i : BitVec 6) (s : State) : (raiseError e i s).supReqArg = s.supReqArg := by
  unfold raiseError; split <;> rfl

@[simp] theorem raiseError_logRow (e : ErrCode) (i : BitVec 6) (s : State) : (raiseError e i s).logRow = s.logRow := by
  unfold raiseError; split <;> rfl

@[simp] theorem raiseError_hostRdata (e : ErrCode) (i : BitVec 6) (s : State) : (raiseError e i s).hostRdata = s.hostRdata := by
  unfold raiseError; split <;> rfl

@[simp] theorem raiseError_inputs (e : ErrCode) (i : BitVec 6) (s : State) : (raiseError e i s).inputs = s.inputs := by
  unfold raiseError; split <;> rfl

/-! ### gotoState: the fields no transition touches -/

@[simp] theorem gotoState_tmr (t : CalState) (s : State) : (gotoState t s).tmr = s.tmr := by
  unfold gotoState takeAbort; split <;> [rfl; (split <;> rfl)]

@[simp] theorem gotoState_rxcnt (t : CalState) (s : State) : (gotoState t s).rxcnt = s.rxcnt := by
  unfold gotoState takeAbort; split <;> [rfl; (split <;> rfl)]

@[simp] theorem gotoState_rxbuf (t : CalState) (s : State) : (gotoState t s).rxbuf = s.rxbuf := by
  unfold gotoState takeAbort; split <;> [rfl; (split <;> rfl)]

@[simp] theorem gotoState_sampleBuf (t : CalState) (s : State) : (gotoState t s).sampleBuf = s.sampleBuf := by
  unfold gotoState takeAbort; split <;> [rfl; (split <;> rfl)]

@[simp] theorem gotoState_supPending (t : CalState) (s : State) : (gotoState t s).supPending = s.supPending := by
  unfold gotoState takeAbort; split <;> [rfl; (split <;> rfl)]

@[simp] theorem gotoState_reject (t : CalState) (s : State) : (gotoState t s).reject = s.reject := by
  unfold gotoState takeAbort; split <;> [rfl; (split <;> rfl)]

@[simp] theorem gotoState_recValid (t : CalState) (s : State) : (gotoState t s).recValid = s.recValid := by
  unfold gotoState takeAbort; split <;> [rfl; (split <;> rfl)]

@[simp] theorem gotoState_readValid (t : CalState) (s : State) : (gotoState t s).readValid = s.readValid := by
  unfold gotoState takeAbort; split <;> [rfl; (split <;> rfl)]

@[simp] theorem gotoState_stopReq (t : CalState) (s : State) : (gotoState t s).stopReq = s.stopReq := by
  unfold gotoState takeAbort; split <;> [rfl; (split <;> rfl)]

@[simp] theorem gotoState_batchRetry (t : CalState) (s : State) : (gotoState t s).batchRetry = s.batchRetry := by
  unfold gotoState takeAbort; split <;> [rfl; (split <;> rfl)]

@[simp] theorem gotoState_cfg (t : CalState) (s : State) : (gotoState t s).cfg = s.cfg := by
  unfold gotoState takeAbort; split <;> [rfl; (split <;> rfl)]

@[simp] theorem gotoState_frame (t : CalState) (s : State) : (gotoState t s).frame = s.frame := by
  unfold gotoState takeAbort; split <;> [rfl; (split <;> rfl)]

@[simp] theorem gotoState_record (t : CalState) (s : State) : (gotoState t s).record = s.record := by
  unfold gotoState takeAbort; split <;> [rfl; (split <;> rfl)]

@[simp] theorem gotoState_rd (t : CalState) (s : State) : (gotoState t s).rd = s.rd := by
  unfold gotoState takeAbort; split <;> [rfl; (split <;> rfl)]

@[simp] theorem gotoState_ses (t : CalState) (s : State) : (gotoState t s).ses = s.ses := by
  unfold gotoState takeAbort; split <;> [rfl; (split <;> rfl)]

@[simp] theorem gotoState_roundWrote (t : CalState) (s : State) : (gotoState t s).roundWrote = s.roundWrote := by
  unfold gotoState takeAbort; split <;> [rfl; (split <;> rfl)]

@[simp] theorem gotoState_roundStop (t : CalState) (s : State) : (gotoState t s).roundStop = s.roundStop := by
  unfold gotoState takeAbort; split <;> [rfl; (split <;> rfl)]

@[simp] theorem gotoState_corrExact (t : CalState) (s : State) : (gotoState t s).corrExact = s.corrExact := by
  unfold gotoState takeAbort; split <;> [rfl; (split <;> rfl)]

@[simp] theorem gotoState_ppmExact (t : CalState) (s : State) : (gotoState t s).ppmExact = s.ppmExact := by
  unfold gotoState takeAbort; split <;> [rfl; (split <;> rfl)]

@[simp] theorem gotoState_txEn (t : CalState) (s : State) : (gotoState t s).txEn = s.txEn := by
  unfold gotoState takeAbort; split <;> [rfl; (split <;> rfl)]

@[simp] theorem gotoState_supReqValid (t : CalState) (s : State) : (gotoState t s).supReqValid = s.supReqValid := by
  unfold gotoState takeAbort; split <;> [rfl; (split <;> rfl)]

@[simp] theorem gotoState_supReqOp (t : CalState) (s : State) : (gotoState t s).supReqOp = s.supReqOp := by
  unfold gotoState takeAbort; split <;> [rfl; (split <;> rfl)]

@[simp] theorem gotoState_supReqArg (t : CalState) (s : State) : (gotoState t s).supReqArg = s.supReqArg := by
  unfold gotoState takeAbort; split <;> [rfl; (split <;> rfl)]

@[simp] theorem gotoState_logValid (t : CalState) (s : State) : (gotoState t s).logValid = s.logValid := by
  unfold gotoState takeAbort; split <;> [rfl; (split <;> rfl)]

@[simp] theorem gotoState_logRow (t : CalState) (s : State) : (gotoState t s).logRow = s.logRow := by
  unfold gotoState takeAbort; split <;> [rfl; (split <;> rfl)]

@[simp] theorem gotoState_hostRdata (t : CalState) (s : State) : (gotoState t s).hostRdata = s.hostRdata := by
  unfold gotoState takeAbort; split <;> [rfl; (split <;> rfl)]

@[simp] theorem gotoState_inputs (t : CalState) (s : State) : (gotoState t s).inputs = s.inputs := by
  unfold gotoState takeAbort; split <;> [rfl; (split <;> rfl)]

/-! ### What raiseError writes -/

@[simp] theorem raiseError_op (e : ErrCode) (i : BitVec 6) (s : State) : (raiseError e i s).op = .idle := by
  unfold raiseError; split <;> rfl

@[simp] theorem raiseError_substep (e : ErrCode) (i : BitVec 6) (s : State) : (raiseError e i s).substep = .none := by
  unfold raiseError; split <;> rfl

@[simp] theorem raiseError_done (e : ErrCode) (i : BitVec 6) (s : State) : (raiseError e i s).done = true := by
  unfold raiseError; split <;> rfl

@[simp] theorem raiseError_errCode (e : ErrCode) (i : BitVec 6) (s : State) : (raiseError e i s).errCode = e := by
  unfold raiseError; split <;> rfl

@[simp] theorem raiseError_errIndex (e : ErrCode) (i : BitVec 6) (s : State) : (raiseError e i s).errIndex = i := by
  unfold raiseError; split <;> rfl

theorem raiseError_calState (e : ErrCode) (i : BitVec 6) (s : State) :
    (raiseError e i s).calState = if s.calState.running then .failed else s.calState := by
  unfold raiseError; split <;> rfl

theorem raiseError_txEn (e : ErrCode) (i : BitVec 6) (s : State) :
    (raiseError e i s).txEn = if s.calState.running then false else s.txEn := by
  unfold raiseError; split <;> rfl

theorem raiseError_logValid (e : ErrCode) (i : BitVec 6) (s : State) :
    (raiseError e i s).logValid = if s.calState.running then false else s.logValid := by
  unfold raiseError; split <;> rfl

theorem raiseError_supPending (e : ErrCode) (i : BitVec 6) (s : State) :
    (raiseError e i s).supPending = if s.calState.running then false else s.supPending := by
  unfold raiseError; split <;> rfl

/-! ### clearErr writes the error fields only -/

@[simp] theorem clearErr_op (s : State) : (clearErr s).op = s.op := rfl

@[simp] theorem clearErr_calState (s : State) : (clearErr s).calState = s.calState := rfl

@[simp] theorem clearErr_substep (s : State) : (clearErr s).substep = s.substep := rfl

@[simp] theorem clearErr_tmr (s : State) : (clearErr s).tmr = s.tmr := rfl

@[simp] theorem clearErr_rxcnt (s : State) : (clearErr s).rxcnt = s.rxcnt := rfl

@[simp] theorem clearErr_rxbuf (s : State) : (clearErr s).rxbuf = s.rxbuf := rfl

@[simp] theorem clearErr_sampleBuf (s : State) : (clearErr s).sampleBuf = s.sampleBuf := rfl

@[simp] theorem clearErr_supPending (s : State) : (clearErr s).supPending = s.supPending := rfl

@[simp] theorem clearErr_done (s : State) : (clearErr s).done = s.done := rfl

@[simp] theorem clearErr_reject (s : State) : (clearErr s).reject = s.reject := rfl

@[simp] theorem clearErr_recValid (s : State) : (clearErr s).recValid = s.recValid := rfl

@[simp] theorem clearErr_readValid (s : State) : (clearErr s).readValid = s.readValid := rfl

@[simp] theorem clearErr_stopReq (s : State) : (clearErr s).stopReq = s.stopReq := rfl

@[simp] theorem clearErr_batchRetry (s : State) : (clearErr s).batchRetry = s.batchRetry := rfl

@[simp] theorem clearErr_cfg (s : State) : (clearErr s).cfg = s.cfg := rfl

@[simp] theorem clearErr_frame (s : State) : (clearErr s).frame = s.frame := rfl

@[simp] theorem clearErr_record (s : State) : (clearErr s).record = s.record := rfl

@[simp] theorem clearErr_rd (s : State) : (clearErr s).rd = s.rd := rfl

@[simp] theorem clearErr_ses (s : State) : (clearErr s).ses = s.ses := rfl

@[simp] theorem clearErr_roundWrote (s : State) : (clearErr s).roundWrote = s.roundWrote := rfl

@[simp] theorem clearErr_roundStop (s : State) : (clearErr s).roundStop = s.roundStop := rfl

@[simp] theorem clearErr_corrExact (s : State) : (clearErr s).corrExact = s.corrExact := rfl

@[simp] theorem clearErr_ppmExact (s : State) : (clearErr s).ppmExact = s.ppmExact := rfl

@[simp] theorem clearErr_txEn (s : State) : (clearErr s).txEn = s.txEn := rfl

@[simp] theorem clearErr_supReqValid (s : State) : (clearErr s).supReqValid = s.supReqValid := rfl

@[simp] theorem clearErr_supReqOp (s : State) : (clearErr s).supReqOp = s.supReqOp := rfl

@[simp] theorem clearErr_supReqArg (s : State) : (clearErr s).supReqArg = s.supReqArg := rfl

@[simp] theorem clearErr_logValid (s : State) : (clearErr s).logValid = s.logValid := rfl

@[simp] theorem clearErr_logRow (s : State) : (clearErr s).logRow = s.logRow := rfl

@[simp] theorem clearErr_hostRdata (s : State) : (clearErr s).hostRdata = s.hostRdata := rfl

@[simp] theorem clearErr_inputs (s : State) : (clearErr s).inputs = s.inputs := rfl

@[simp] theorem clearErr_errCode (s : State) : (clearErr s).errCode = .none := rfl

@[simp] theorem clearErr_errIndex (s : State) : (clearErr s).errIndex = 0 := rfl

/-! ### Reset -/

@[simp] theorem resetBlock_op (s : State) : (resetBlock s).op = State.reset.op := rfl

@[simp] theorem resetBlock_calState (s : State) : (resetBlock s).calState = State.reset.calState := rfl

@[simp] theorem resetBlock_substep (s : State) : (resetBlock s).substep = State.reset.substep := rfl

@[simp] theorem resetBlock_tmr (s : State) : (resetBlock s).tmr = State.reset.tmr := rfl

@[simp] theorem resetBlock_rxcnt (s : State) : (resetBlock s).rxcnt = State.reset.rxcnt := rfl

@[simp] theorem resetBlock_rxbuf (s : State) : (resetBlock s).rxbuf = State.reset.rxbuf := rfl

@[simp] theorem resetBlock_sampleBuf (s : State) : (resetBlock s).sampleBuf = State.reset.sampleBuf := rfl

@[simp] theorem resetBlock_supPending (s : State) : (resetBlock s).supPending = State.reset.supPending := rfl

@[simp] theorem resetBlock_done (s : State) : (resetBlock s).done = State.reset.done := rfl

@[simp] theorem resetBlock_reject (s : State) : (resetBlock s).reject = State.reset.reject := rfl

@[simp] theorem resetBlock_recValid (s : State) : (resetBlock s).recValid = State.reset.recValid := rfl

@[simp] theorem resetBlock_readValid (s : State) : (resetBlock s).readValid = State.reset.readValid := rfl

@[simp] theorem resetBlock_errCode (s : State) : (resetBlock s).errCode = State.reset.errCode := rfl

@[simp] theorem resetBlock_errIndex (s : State) : (resetBlock s).errIndex = State.reset.errIndex := rfl

@[simp] theorem resetBlock_stopReq (s : State) : (resetBlock s).stopReq = State.reset.stopReq := rfl

@[simp] theorem resetBlock_batchRetry (s : State) : (resetBlock s).batchRetry = State.reset.batchRetry := rfl

@[simp] theorem resetBlock_cfg (s : State) : (resetBlock s).cfg = State.reset.cfg := rfl

@[simp] theorem resetBlock_frame (s : State) : (resetBlock s).frame = State.reset.frame := rfl

@[simp] theorem resetBlock_record (s : State) : (resetBlock s).record = State.reset.record := rfl

@[simp] theorem resetBlock_rd (s : State) : (resetBlock s).rd = State.reset.rd := rfl

@[simp] theorem resetBlock_ses (s : State) : (resetBlock s).ses = State.reset.ses := rfl

@[simp] theorem resetBlock_roundWrote (s : State) : (resetBlock s).roundWrote = State.reset.roundWrote := rfl

@[simp] theorem resetBlock_roundStop (s : State) : (resetBlock s).roundStop = State.reset.roundStop := rfl

@[simp] theorem resetBlock_corrExact (s : State) : (resetBlock s).corrExact = State.reset.corrExact := rfl

@[simp] theorem resetBlock_ppmExact (s : State) : (resetBlock s).ppmExact = State.reset.ppmExact := rfl

@[simp] theorem resetBlock_txEn (s : State) : (resetBlock s).txEn = State.reset.txEn := rfl

@[simp] theorem resetBlock_supReqValid (s : State) : (resetBlock s).supReqValid = State.reset.supReqValid := rfl

@[simp] theorem resetBlock_supReqOp (s : State) : (resetBlock s).supReqOp = State.reset.supReqOp := rfl

@[simp] theorem resetBlock_supReqArg (s : State) : (resetBlock s).supReqArg = State.reset.supReqArg := rfl

@[simp] theorem resetBlock_logValid (s : State) : (resetBlock s).logValid = State.reset.logValid := rfl

@[simp] theorem resetBlock_logRow (s : State) : (resetBlock s).logRow = State.reset.logRow := rfl

@[simp] theorem resetBlock_hostRdata (s : State) : (resetBlock s).hostRdata = State.reset.hostRdata := rfl

@[simp] theorem resetBlock_inputs (s : State) : (resetBlock s).inputs = s.inputs := rfl

end Sys2Proof.Machine
end

