-- ==== Sys2Proof/Laws/Ops.lean ====
section
/-! SUPPORT. The shared operations, each said once: what it answers under each of its conditions. -/

namespace Sys2Proof.Laws

open Sys2Proof.Machine

/-- A result is its state. -/
theorem next_congr {a b : State} (h : a = b) : (Host.Outcome.next a : Result) = .next b := by rw [h]

/-- A step of the sequencer is its state. -/
theorem advance_congr {a b : State} (h : a = b) : Advance.next a = .next b := by rw [h]

/-- The second action runs on the state the first one leaves. -/
theorem andThen_next (s : State) (f : State → Result) : andThen (.next s) f = f s := rfl

/-- Two actions in a row answer a next state only through one between them. -/
theorem andThen_eq_next {r : Result} {f : State → Result} {t : State} (h : andThen r f = .next t) :
    ∃ s, r = .next s ∧ f s = .next t := by
  cases r with
  | next s => exact ⟨s, rfl, h⟩
  | fault e => cases h
  | refused e => cases h

/-! ### Acceptance (R175) -/

theorem busy_eq_false {s : State} (h : s.op = .idle) : s.busy = false := by simp [State.busy, h]

theorem busy_eq_true {s : State} (h : s.op ≠ .idle) : s.busy = true := by simp [State.busy, h]

/-- While idle a command clears the error and runs. -/
theorem whenIdle_idle {s : State} (f : State → State) (h : s.op = .idle) : whenIdle s f = f (clearErr s) := by
  unfold whenIdle; rw [busy_eq_false h]; rfl

/-- While busy a command sets `REJECT` and nothing else. -/
theorem whenIdle_busy {s : State} (f : State → State) (h : s.op ≠ .idle) : whenIdle s f = s.setReject := by
  unfold whenIdle; rw [busy_eq_true h]; rfl

/-- While idle a register write happens. -/
theorem writeWhenIdle_idle {s : State} (t : State) (h : s.op = .idle) : writeWhenIdle s t = t := by
  unfold writeWhenIdle; rw [busy_eq_false h]; rfl

/-- While busy a register write sets `REJECT` and nothing else. -/
theorem writeWhenIdle_busy {s : State} (t : State) (h : s.op ≠ .idle) : writeWhenIdle s t = s.setReject := by
  unfold writeWhenIdle; rw [busy_eq_true h]; rfl

/-! ### Errors (R243) and transitions (R192) -/

/-- `raise` in a running calibration state. -/
theorem raiseError_running {s : State} (e : ErrCode) (i : BitVec 6) (h : s.calState.running = true) :
    raiseError e i s = s.failedWith e i := by
  unfold raiseError; rw [if_pos h]; rfl

/-- `raise` outside a run. -/
theorem raiseError_notRunning {s : State} (e : ErrCode) (i : BitVec 6) (h : s.calState.running = false) :
    raiseError e i s = { s with errCode := e, errIndex := i, op := .idle, substep := .none, done := true } := by
  unfold raiseError; rw [h]; rfl

/-- `goto` with an abort pending. -/
theorem gotoState_abort {s : State} (c : CalState) (h : s.stopReq = .abort) : gotoState c s = takeAbort s := by
  unfold gotoState; rw [if_pos h]

/-- `goto(CONVERGED)` with none pending. -/
theorem gotoState_converged {s : State} (h : s.stopReq ≠ .abort) :
    gotoState .converged s = { s.complete with calState := .converged } := by
  unfold gotoState; rw [if_neg h, if_pos rfl]

/-- `goto` to any other state with none pending. -/
theorem gotoState_enter {s : State} {c : CalState} (h : s.stopReq ≠ .abort) (hc : c ≠ .converged) :
    gotoState c s = { s with calState := c, substep := .entry } := by
  unfold gotoState; rw [if_neg h, if_neg hc]

/-- The running states are codes 1 to 8 (R27). -/
theorem running_iff_code (c : CalState) : c.running = true ↔ 1 ≤ c.code.toNat ∧ c.code.toNat ≤ 8 := by
  cases c <;> decide

/-! ### Ticks, the read test and transactions -/

/-- A tick changes the timer and nothing else. -/
theorem countTick_eq (t : Bool) (s : State) : countTick t s = { s with tmr := s.ticked t } := by
  unfold countTick State.ticked; cases t <;> rfl

theorem readTest_frame {s : State} (h : s.rxcnt = 35) : readTest s = .frame := by
  unfold readTest; rw [if_pos h]

theorem readTest_timeout {s : State} (h : s.rxcnt ≠ 35) (g : s.cfg.timeoutMs.toNat ≤ s.tmr.toNat) :
    readTest s = .timeout := by
  unfold readTest; rw [if_neg h, if_pos g]

theorem readTest_hold {s : State} (h : s.rxcnt ≠ 35) (g : s.tmr.toNat < s.cfg.timeoutMs.toNat) : readTest s = .hold := by
  unfold readTest; rw [if_neg h, if_neg (by omega)]

/-- A response to the outstanding request wins over the tick and the timeout (R13). -/
theorem txnStep_response {s : State} (t : Bool) (d : Word) (h : s.supPending = true) :
    txnStep t (some d) s = (.response d, { s with supPending := false }) := by
  unfold txnStep takenResponse; rw [if_pos h]

/-- No response, and the timer has reached the limit. -/
theorem txnStep_timeout {s : State} (t : Bool) (g : s.cfg.supTimeoutMs.toNat ≤ (s.ticked t).toNat) :
    txnStep t none s = (.timeout, { s with tmr := s.ticked t }) := by
  unfold txnStep takenResponse; simp only [ite_self]; rw [countTick_eq, if_pos (by exact g)]

/-- No response, and time left. -/
theorem txnStep_hold {s : State} (t : Bool) (g : (s.ticked t).toNat < s.cfg.supTimeoutMs.toNat) :
    txnStep t none s = (.hold, { s with tmr := s.ticked t }) := by
  unfold txnStep takenResponse; simp only [ite_self]; rw [countTick_eq, if_neg (by simpa using g)]

/-- The three ends of a transaction's step. -/
theorem txnStep_cases (t : Bool) (rsp : Option Word) (s : State) :
    (∃ d, txnStep t rsp s = (.response d, { s with supPending := false }) ∧ takenResponse rsp s = some d) ∨
      txnStep t rsp s = (.timeout, countTick t s) ∨ txnStep t rsp s = (.hold, countTick t s) := by
  unfold txnStep
  split
  · left; exact ⟨_, rfl, ‹_›⟩
  · right; simp only; split <;> simp

/-! ### Received bytes -/

/-- A byte that no acquisition waits for is discarded (R126). -/
theorem capture_ignored {s : State} (b : Byte) (h : s.acquiring = false) : capture b s = s := by
  unfold capture; rw [h]; rfl

/-- A byte an acquisition waits for is kept while fewer than 35 are held (R126). -/
theorem capture_kept {s : State} (b : Byte) (h : s.acquiring = true) (hl : s.rxcnt.toNat < 35) :
    capture b s = { s with rxbuf := s.rxbuf.set s.rxcnt.toNat b, rxcnt := s.rxcnt + 1 } := by
  unfold capture State.pushByte; rw [if_pos h, dif_pos hl]

/-- A byte past the 35th is discarded (R126). -/
theorem capture_full {s : State} (b : Byte) (hl : 35 ≤ s.rxcnt.toNat) : capture b s = s := by
  unfold capture State.pushByte; rw [dif_neg (by omega), ite_self]

/-! ### The Record -/

/-- Nibble packing by R98's shifts. -/
theorem unpackRecord_eq (f : Frame) : unpackRecord f = Vector.ofFn (recordByte f) := by
  unfold unpackRecord
  have key : ∀ a b : Byte, nibbleOf a ++ nibbleOf b = (((a >>> 2) &&& 0x0F) <<< 4) ||| ((b >>> 2) &&& 0x0F) := by
    intro a b
    apply BitVec.eq_of_getLsbD_eq
    intro i hi
    have : i = 0 ∨ i = 1 ∨ i = 2 ∨ i = 3 ∨ i = 4 ∨ i = 5 ∨ i = 6 ∨ i = 7 := by omega
    rcases this with rfl | rfl | rfl | rfl | rfl | rfl | rfl | rfl <;> rw [BitVec.getLsbD_append] <;>
      simp [nibbleOf, BitVec.getLsbD_extractLsb', -BitVec.getLsbD_eq_getElem]
  congr 1
  funext i
  unfold recordByte packByte
  simp only [key]

/-- The validity test is the rule's (R95). -/
theorem validSymbol_iff (b : Byte) : validSymbol b = true ↔ symbolOk b := by simp [validSymbol, symbolOk]

/-- A frame of valid symbols decodes to R98's Record. -/
theorem decodeCore_ok {f : Frame} (h : ∀ i : Fin 35, symbolOk f[i]) : decodeCore f = .ok (Vector.ofFn (recordByte f)) := by
  have none : firstInvalid f = none := by
    unfold firstInvalid
    rw [List.find?_eq_none]
    intro i _
    simpa using (validSymbol_iff _).mpr (h i)
  unfold decodeCore
  rw [none, unpackRecord_eq]

/-- A frame with an invalid symbol does not decode. -/
theorem decodeCore_error {f : Frame} (h : ∃ i : Fin 35, ¬ symbolOk f[i]) : ∃ i, decodeCore f = .error i := by
  obtain ⟨i, hi⟩ := h
  unfold decodeCore
  cases hf : firstInvalid f with
  | some j => exact ⟨j, rfl⟩
  | none =>
    unfold firstInvalid at hf
    rw [List.find?_eq_none] at hf
    exact absurd ((validSymbol_iff _).mp (by simpa using hf i (List.mem_finRange i))) hi

/-! ### Calibration samples -/

/-- A failed sample's counters, as R199 writes them. -/
theorem countAcqFail_eq (s : State) : s.countAcqFail = { s with ses := s.ses.acqFailed } := rfl

/-- A failed sample within the cap: the next one starts, while the batch is not full (R199). -/
theorem sampleFailed_retry {s : State} (p : Point) (h : s.ses.acqFailed.acqRun.toNat ≤ s.cfg.maxAcqFails.toNat)
    (hn : s.sampleBuf.length < s.cfg.nSamples.toNat) :
    sampleFailed p s = .next (startAcq .cal { s with ses := s.ses.acqFailed }) := by
  have cap : ¬ s.cfg.maxAcqFails.toNat < s.ses.acqFailed.acqRun.toNat := by omega
  exact (if_neg cap).trans (if_pos hn)

/-- A failed sample past the cap fails the run (R199). -/
theorem sampleFailed_raise {s : State} (p : Point) (h : s.cfg.maxAcqFails.toNat < s.ses.acqFailed.acqRun.toNat) :
    sampleFailed p s = .next (raiseError .calAcqFail 0 { s with ses := s.ses.acqFailed }) := by
  exact if_pos h

end Sys2Proof.Laws
end

