-- ==== Sys2Proof/Laws/Invariant.lean ====
section
/-! SUPPORT. Each operation of the block keeps the invariant of Safety.lean: the host's access, the received byte, and the sequencer at every await point. -/

namespace Sys2Proof.Laws

open Sys2Proof.Machine

theorem legal_idle {c w} (h : legalPoint .idle c w = true) : c.running = false ∧ w = .none := by
  simpa [legalPoint] using h

theorem blockInv_begin {s} (h : BlockInv s) : BlockInv s.begin := by
  obtain ⟨h1,h2,h3,h4,h5,h6,h7,h8,h9,h10,h11,h12,h13,h14,h15⟩ := h
  constructor <;> simp_all [State.sampleIdx]

theorem blockInv_hostRdata {s} (h : BlockInv s) (v) : BlockInv {s with hostRdata := v} := by
  obtain ⟨h1,h2,h3,h4,h5,h6,h7,h8,h9,h10,h11,h12,h13,h14,h15⟩ := h
  constructor <;> simp_all [State.sampleIdx]

theorem blockInv_setReject {s} (h : BlockInv s) : BlockInv s.setReject := by
  obtain ⟨h1,h2,h3,h4,h5,h6,h7,h8,h9,h10,h11,h12,h13,h14,h15⟩ := h
  constructor <;> simp_all [State.sampleIdx]

theorem blockInv_setDone {s} (h : BlockInv s) (hi : s.op = .idle) : BlockInv s.setDone := by
  obtain ⟨h1,h2,h3,h4,h5,h6,h7,h8,h9,h10,h11,h12,h13,h14,h15⟩ := h
  constructor <;> simp_all [State.sampleIdx]

theorem blockInv_clearErr {s} (h : BlockInv s) : BlockInv (clearErr s) := by
  obtain ⟨h1,h2,h3,h4,h5,h6,h7,h8,h9,h10,h11,h12,h13,h14,h15⟩ := h
  constructor <;> simp_all [State.sampleIdx]

theorem blockInv_writeStatus {s} (h : BlockInv s) (v) : BlockInv (writeStatus v s) := by
  obtain ⟨h1,h2,h3,h4,h5,h6,h7,h8,h9,h10,h11,h12,h13,h14,h15⟩ := h
  constructor <;> simp_all [State.sampleIdx]

theorem blockInv_cfg {s} (h : BlockInv s) (hi : s.op = .idle) (c) : BlockInv {s with cfg := c} := by
  obtain ⟨h1,h2,h3,h4,h5,h6,h7,h8,h9,h10,h11,h12,h13,h14,h15⟩ := h
  constructor <;> simp_all [State.sampleIdx]

theorem blockInv_frame {s} (h : BlockInv s) (c) : BlockInv {s with frame := c} := by
  obtain ⟨h1,h2,h3,h4,h5,h6,h7,h8,h9,h10,h11,h12,h13,h14,h15⟩ := h
  constructor <;> simp_all [State.sampleIdx]

theorem failed_running : CalState.failed.running = false := rfl
theorem blockInv_raise {s} (h : BlockInv s) (e i) (hp : s.substep ≠ .aPulse) (hr : s.calState.running = false → s.supPending = false ∧ s.logValid = false) :
    BlockInv (raiseError e i s) := by
  obtain ⟨h1,h2,h3,h4,h5,h6,h7,h8,h9,h10,h11,h12,h13,h14,h15⟩ := h
  have htx : s.txEn = false := by
    cases ht : s.txEn
    · rfl
    · exact absurd (h2.mp ht) hp
  cases hc : s.calState.running
  · have h1' := hr hc
    unfold raiseError
    rw [hc]
    constructor <;> simp [legalPoint, Await.isTxn, hc, h1', htx, h5, h9.1, State.sampleIdx]
    · simpa using h13
    · simpa using h14
    · simpa [State.sampleIdx] using h15
  · unfold raiseError
    rw [hc]
    constructor <;> simp [legalPoint, Await.isTxn, failed_running, h5, h9.1]
    · simpa using h13
    · simpa using h14
    · simpa [State.sampleIdx] using h15

theorem blockInv_writeWhenIdle {s t} (h : BlockInv s) (ht : s.op = .idle → BlockInv t) : BlockInv (writeWhenIdle s t) := by
  unfold Sys2Proof.Machine.writeWhenIdle State.busy
  split
  · exact blockInv_setReject h
  · exact ht (by simp_all)

theorem blockInv_writeReg {s} (h : BlockInv s) (r v) : BlockInv (writeReg r v s) := by
  cases r <;> simp only [Sys2Proof.Machine.writeReg] <;> try exact h
  · exact blockInv_writeStatus h _
  · exact blockInv_writeWhenIdle h (fun hi => blockInv_cfg h hi _)
  · exact blockInv_writeWhenIdle h (fun hi => blockInv_frame h _)

theorem blockInv_whenIdle {s} (h : BlockInv s) (f : State → State) (hf : ∀ s, BlockInv s → s.op = .idle → s.errCode = .none → BlockInv (f s)) : BlockInv (whenIdle s f) := by
  unfold Sys2Proof.Machine.whenIdle State.busy
  split
  · exact blockInv_setReject h
  · exact hf _ (blockInv_clearErr h) (by simp_all) rfl

theorem blockInv_idle {s} (h : BlockInv s) (hi : s.op = .idle) : s.calState.running = false ∧ s.substep = .none ∧ s.txEn = false ∧ s.supPending = false ∧ s.logValid = false := by
  have h1 := h.point; rw [hi] at h1
  obtain ⟨a, b⟩ := legal_idle h1
  refine ⟨a, b, ?_, ?_, ?_⟩
  · have := h.txEn; simp_all
  · rw [h.pending, b]; rfl
  · have := h.logValid; simp_all

theorem blockInv_illegal {s} (h : BlockInv s) : BlockInv (illegalCommand s) := by
  unfold illegalCommand State.busy
  split
  · exact blockInv_setReject h
  · have hi : s.op = .idle := by simp_all
    obtain ⟨a,b,c,d,e⟩ := blockInv_idle h hi
    exact blockInv_raise h _ _ (by simp [b]) (fun _ => ⟨d, e⟩)

theorem blockInv_startIdle {s} (h : BlockInv s) (hi : s.op = .idle) (he : s.errCode = .none) (l) (hl : l = .acqPulse ∨ l = .smpPulse) : BlockInv (startAcq l s.accept) := by
  obtain ⟨a,b,c,d,e⟩ := blockInv_idle h hi
  obtain ⟨h1,h2,h3,h4,h5,h6,h7,h8,h9,h10,h11,h12,h13,h14,h15⟩ := h
  rcases hl with rfl | rfl <;> constructor <;> simp_all [State.sampleIdx, legalPoint, Await.isTxn]

theorem blockInv_dropRecord {s} (h : BlockInv s) : BlockInv s.dropRecord := by
  obtain ⟨h1,h2,h3,h4,h5,h6,h7,h8,h9,h10,h11,h12,h13,h14,h15⟩ := h
  constructor <;> simp_all [State.sampleIdx]

theorem blockInv_storeRecord {s} (h : BlockInv s) (r) : BlockInv (s.storeRecord r) := by
  obtain ⟨h1,h2,h3,h4,h5,h6,h7,h8,h9,h10,h11,h12,h13,h14,h15⟩ := h
  constructor <;> simp_all [State.sampleIdx]

theorem blockInv_storeReading {s} (h : BlockInv s) (hr : s.recValid = true) : BlockInv (s.storeReading (mapCore Config.build s.record)) := by
  obtain ⟨h1,h2,h3,h4,h5,h6,h7,h8,h9,h10,h11,h12,h13,h14,h15⟩ := h
  constructor <;> simp_all [State.sampleIdx]

theorem blockInv_reset (l) : BlockInv {State.reset with inputs := l} := by
  constructor <;> simp [State.reset, legalPoint, CalState.running, Await.isTxn, State.sampleIdx]

theorem blockInv_calStart {s} (h : BlockInv s) (hi : s.op = .idle) (he : s.errCode = .none) : BlockInv (calStartCommand s) := by
  obtain ⟨a,b,c,d,e⟩ := blockInv_idle h hi
  unfold calStartCommand
  split
  · apply blockInv_raise
    · obtain ⟨h1,h2,h3,h4,h5,h6,h7,h8,h9,h10,h11,h12,h13,h14,h15⟩ := h
      constructor <;> simp_all [State.sampleIdx]
    · simp [b]
    · simp [d, e]
  · rename_i hc
    have hs : s.cfg.settleInitMs ≠ 0 := by
      intro h0; unfold configCheck at hc; simp [h0] at hc
      split at hc <;> try simp at hc
      split at hc <;> simp at hc
    have hs' : (s.cfg.settleInitMs.setWidth 32) ≠ 0 := by
      intro h0; apply hs
      have := congrArg BitVec.toNat h0
      apply BitVec.eq_of_toNat_eq
      have h0 : (0 : Word).toNat = 0 := rfl
      have h1 : (0 : BitVec 24).toNat = 0 := rfl
      rw [h0] at this; rw [h1]
      simp at this
      omega
    obtain ⟨h1,h2,h3,h4,h5,h6,h7,h8,h9,h10,h11,h12,h13,h14,h15⟩ := h
    unfold gotoState
    constructor <;> simp_all [State.sampleIdx, legalPoint, Await.isTxn, CalState.awaits, Session.init, CalState.constantsRead]

theorem blockInv_stop {s} (h : BlockInv s) (r) : BlockInv (stopCommand r s) := by
  unfold stopCommand
  split
  · exact blockInv_setDone (blockInv_clearErr h) (by simpa)
  split
  · obtain ⟨h1,h2,h3,h4,h5,h6,h7,h8,h9,h10,h11,h12,h13,h14,h15⟩ := h
    constructor <;> simp_all [State.sampleIdx]
  · exact blockInv_setReject h

theorem blockInv_clear {s} (h : BlockInv s) (hi : s.op = .idle) : BlockInv (clearCommand s) := by
  obtain ⟨a,b,c,d,e⟩ := blockInv_idle h hi
  obtain ⟨h1,h2,h3,h4,h5,h6,h7,h8,h9,h10,h11,h12,h13,h14,h15⟩ := h
  constructor <;> simp_all [State.sampleIdx, legalPoint]
  split <;> simp_all [CalState.running]

theorem blockInv_issue {s t} (h : BlockInv s) (v) (ht : commandIssue v s = .next t) : BlockInv t := by
  unfold commandIssue at ht
  split at ht
  · rename_i i hd
    rcases decode_command_cases hd with rfl | rfl | rfl | rfl | rfl | rfl | rfl | rfl | rfl | rfl | rfl <;> simp only [exec, Host.Outcome.next.injEq, execNop, execAcquire, execDecode, execMap, execSample, execCalStart, execCalStopKeep, execCalStopAdjust, execCalAbort, execClear, execSoftReset] at ht <;> subst ht
    · exact blockInv_whenIdle h _ (fun s h hi _ => blockInv_setDone h hi)
    · exact blockInv_whenIdle h _ (fun s h hi he => blockInv_startIdle h hi he _ (.inl rfl))
    · refine blockInv_whenIdle h _ (fun s h hi he => ?_)
      unfold decodeFrame
      obtain ⟨a,b,c,d,e⟩ := blockInv_idle h hi
      split
      · exact blockInv_raise (blockInv_dropRecord h) _ _ (by simp [b]) (by simp [d,e])
      · exact blockInv_setDone (blockInv_storeRecord h _) (by simpa)
    · refine blockInv_whenIdle h _ (fun s h hi he => ?_)
      unfold mapCommand
      obtain ⟨a,b,c,d,e⟩ := blockInv_idle h hi
      split
      · exact blockInv_setDone (blockInv_storeReading h ‹_›) (by simpa)
      · exact blockInv_raise h _ _ (by simp [b]) (by simp [d,e])
    · exact blockInv_whenIdle h _ (fun s h hi he => blockInv_startIdle h hi he _ (.inr rfl))
    · exact blockInv_whenIdle h _ (fun s h hi he => blockInv_calStart h hi he)
    · exact blockInv_stop h _
    · exact blockInv_stop h _
    · exact blockInv_stop h _
    · exact blockInv_whenIdle h _ (fun s h hi _ => blockInv_clear h hi)
    · exact blockInv_reset _
  · simp only [Host.Outcome.next.injEq] at ht; subst ht; exact blockInv_illegal h

theorem blockInv_memWrite {s t} (h : BlockInv s) (o v) (ht : memWrite o v s = .next t) : BlockInv t := by
  unfold Sys2Proof.Machine.memWrite at ht
  split at ht
  · exact blockInv_issue h v ht
  · simp only [Host.Outcome.next.injEq] at ht; subst ht; exact blockInv_writeReg h _ _
  · simp only [Host.Outcome.next.injEq] at ht; subst ht; exact h

theorem blockInv_phaseP2 {s t} (h : BlockInv s) (inp) (ht : phaseP2 inp s = .next t) : BlockInv t := by
  unfold Sys2Proof.Machine.phaseP2 at ht
  split at ht
  · simp only [Host.Outcome.next.injEq] at ht; subst ht; exact h
  · simp only [Host.Outcome.next.injEq] at ht; subst ht; exact blockInv_hostRdata h _
  · exact blockInv_memWrite h _ _ ht
theorem blockInv_push {s} (h : BlockInv s) (b) : BlockInv (s.pushByte b) := by
  unfold State.pushByte
  split
  · rename_i hl
    obtain ⟨h1,h2,h3,h4,h5,h6,h7,h8,h9,h10,h11,h12,h13,h14,h15⟩ := h
    constructor <;> simp_all [State.sampleIdx]
    omega
  · exact h

theorem blockInv_capture {s} (h : BlockInv s) (b) : BlockInv (capture b s) := by
  unfold Sys2Proof.Machine.capture
  split
  · exact blockInv_push h b
  · exact h

theorem blockInv_receive {s t} (h : BlockInv s) (rx) (ht : receive rx s = .next t) : BlockInv t := by
  unfold Sys2Proof.Machine.receive at ht
  split at ht
  · cases ht; exact h
  · split at ht
    · rename_i hd
      rw [decode_transport_cases hd] at ht
      simp only [exec, execSymbol, Host.Outcome.next.injEq] at ht
      subst ht; exact blockInv_capture h _
    · cases ht; exact blockInv_capture h _

theorem blockInv_tick {s} (h : BlockInv s) (t) : BlockInv (countTick t s) := by
  obtain ⟨h1,h2,h3,h4,h5,h6,h7,h8,h9,h10,h11,h12,h13,h14,h15⟩ := h
  constructor <;> simp_all [State.sampleIdx]


/-- What holds of a running calibration in the middle of a step, whatever its await point. -/
structure InCal (s : State) : Prop where
  hop : s.op = .cal
  done : s.done = false
  err : s.errCode = .none
  config : configCheck s.cfg = none
  settle : s.ses.settleMs ≠ 0
  retry : s.batchRetry.toNat ≤ 256
  rxcnt : s.rxcnt.toNat ≤ 35
  reading : s.readValid = true → s.recValid = true ∧ s.rd = mapCore Config.build s.record
  supplyOp : s.supReqValid = true → 1 ≤ s.supReqOp.toNat ∧ s.supReqOp.toNat ≤ 7
  samples : s.sampleIdx ≤ Config.nMax ∧ s.sampleBuf.map Sample.arrival = List.range s.sampleIdx

/-- `BATCH_RETRY` is within its cap (R202). -/
def RetryInCap (s : State) : Prop := s.batchRetry.toNat ≤ s.cfg.maxBatchRetries.toNat
/-- The line is low, and no request and no row is outstanding. -/
def NothingOutstanding (s : State) : Prop := s.txEn = false ∧ s.supPending = false ∧ s.logValid = false
/-- The supply's constants as the block knows them are in bounds (R194, R214). -/
def ConstantsInBounds (s : State) : Prop := s.cfg.offsetInBounds s.ses.offset = true ∧ s.cfg.gainInBounds s.ses.gain = true
/-- The correction about to be written is in bounds (R214). -/
def CorrectionInBounds (s : State) : Prop := s.cfg.offsetInBounds s.ses.newOffset = true ∧ s.cfg.gainInBounds s.ses.newGain = true

theorem blockInv_inCal {s} (h : BlockInv s) (hop : s.op = .cal) : InCal s ∧ RetryInCap s :=
  ⟨⟨hop, (h.busy (by simp [hop])).1, (h.busy (by simp [hop])).2, h.config hop, h.settle hop, h.retry.1, h.rxcnt, h.reading, h.supplyOp, h.samples⟩, h.retry.2 hop⟩

theorem inCal_raise {s} (h : InCal s) (e i) (hr : s.calState.running = true) : BlockInv (raiseError e i s) := by
  obtain ⟨h1,h2,h3,h4,h5,h6,h7,h8,h9,h10⟩ := h
  unfold raiseError
  rw [hr]
  constructor <;> simp [legalPoint, Await.isTxn, failed_running, h6, h7]
  · simpa using h8
  · simpa using h9
  · simpa [State.sampleIdx] using h10

theorem inCal_goto {s} (h : InCal s) (hr : RetryInCap s) (q : NothingOutstanding s) (t)
    (hcr : t.constantsRead = true → ConstantsInBounds s) (hco : t = .writeCal → CorrectionInBounds s)
    (ht : t = .converged ∨ t.running = true) : BlockInv (gotoState t s) := by
  obtain ⟨hop,h2,h3,h4,h5,h6,h7,h8,h9,h10⟩ := h
  obtain ⟨htx, hsp, hlv⟩ := q
  have key : ((gotoState t s).op = .idle ∧ (gotoState t s).calState.running = false ∧ (gotoState t s).substep = .none) ∨
     ((gotoState t s).op = .cal ∧ (gotoState t s).calState = t ∧ t.running = true ∧ (gotoState t s).substep = .entry ∧ (gotoState t s).done = s.done ∧ (gotoState t s).errCode = s.errCode) := by
    unfold gotoState takeAbort
    split
    · left; exact ⟨rfl, rfl, rfl⟩
    split
    · left; exact ⟨rfl, rfl, rfl⟩
    · right; exact ⟨hop, rfl, ht.resolve_left ‹_›, rfl, rfl, rfl⟩
  generalize hg : gotoState t s = g at key ⊢
  have e1 : g.txEn = false := by rw [← hg]; simpa using htx
  have e2 : g.supPending = false := by rw [← hg]; simpa using hsp
  have e3 : g.logValid = false := by rw [← hg]; simpa using hlv
  have e4 : g.rxcnt = s.rxcnt := by rw [← hg]; simp
  have e5 : g.cfg = s.cfg := by rw [← hg]; simp
  have e6 : g.ses = s.ses := by rw [← hg]; simp
  have e7 : g.batchRetry = s.batchRetry := by rw [← hg]; simp
  have e8 : g.readValid = s.readValid := by rw [← hg]; simp
  have e9 : g.recValid = s.recValid := by rw [← hg]; simp
  have e10 : g.rd = s.rd := by rw [← hg]; simp
  have e11 : g.record = s.record := by rw [← hg]; simp
  have e12 : g.supReqValid = s.supReqValid := by rw [← hg]; simp
  have e14 : g.sampleBuf = s.sampleBuf := by rw [← hg]; simp
  have e13 : g.supReqOp = s.supReqOp := by rw [← hg]; simp
  rcases key with ⟨a, b, c⟩ | ⟨a, b, b', c, d, e⟩
  · refine ⟨?_, by simp [e1, c], by simp [e2, c, Await.isTxn], by simp [e3, c], by rw [e4]; exact h7, by simp [a], by simp [a], by simp [a], ⟨by rw [e7]; exact h6, by simp [a]⟩, by simp [a], by simp [a], by simp [a], by rw [e8, e9, e10, e11]; exact h8, by rw [e12, e13]; exact h9, by unfold State.sampleIdx at *; rw [e14]; exact h10⟩
    rw [a, c]; simp [legalPoint, b]
  · refine ⟨?_, by simp [e1, c], by simp [e2, c, Await.isTxn], by simp [e3, c], by rw [e4]; exact h7, by simp [d, e, h2, h3], by simp [e5, h4], by rw [e6]; exact fun _ => h5, ⟨by rw [e7]; exact h6, by rw [e7, e5]; exact fun _ => hr⟩, ?_, ?_, by simp [c], by rw [e8, e9, e10, e11]; exact h8, by rw [e12, e13]; exact h9, by unfold State.sampleIdx at *; rw [e14]; exact h10⟩
    · rw [a, c, b]; cases t <;> simp_all [legalPoint, CalState.awaits, CalState.running]
    · rw [b, e5, e6]; exact fun _ => hcr
    · rw [b, e5, e6]; exact fun _ => hco

/-- Holding at an await point of the run's current state keeps the invariant. -/
theorem inCal_hold {s} (h : InCal s) (hr : RetryInCap s) (hp : s.calState.awaits.contains s.substep = true)
    (htx : s.txEn = true ↔ s.substep = .aPulse) (hsp : s.supPending = s.substep.isTxn) (hlv : s.logValid = true ↔ s.substep = .lEmit)
    (hcr : s.calState.constantsRead = true → ConstantsInBounds s) (hco : s.calState = .writeCal → CorrectionInBounds s)
    (hb : s.substep = .aPulse ∨ s.substep = .aRead → s.sampleIdx < s.cfg.nSamples.toNat) : BlockInv s := by
  obtain ⟨hop,h2,h3,h4,h5,h6,h7,h8,h9,h10⟩ := h
  exact ⟨by rw [hop]; exact hp, htx, hsp, hlv, h7, fun _ => ⟨h2, h3⟩, fun _ => h4, fun _ => h5, ⟨h6, fun _ => hr⟩, fun _ => hcr, fun _ => hco, fun _ => hb, h8, h9, h10⟩


/-- What a step of the sequencer comes to meets the invariant, with its request issued if there is one, and is no stop. -/
def AdvanceInv (a : Advance) : Prop := match a with
  | .next t => BlockInv t
  | .issue i s => ∃ t, exec i s = .next t ∧ BlockInv t
  | .stop _ => False

/-- Issuing a supply request keeps the invariant. -/
theorem inCal_emit {s} (h : InCal s) (hr : RetryInCap s) (op arg w) (hop : 1 ≤ op.toNat ∧ op.toNat ≤ 7) (hp : s.calState.awaits.contains w = true) (hw : w.isTxn = true)
    (htx : s.txEn = false) (hlv : s.logValid = false)
    (hcr : s.calState.constantsRead = true → ConstantsInBounds s) (hco : s.calState = .writeCal → CorrectionInBounds s) : BlockInv (emitRequest op arg w s) := by
  obtain ⟨h1,h2,h3,h4,h5,h6,h7,h8,h9,h10⟩ := h
  have a1 : w ≠ .aPulse := by rintro rfl; simp [Await.isTxn] at hw
  have a2 : w ≠ .aRead := by rintro rfl; simp [Await.isTxn] at hw
  have a3 : w ≠ .lEmit := by rintro rfl; simp [Await.isTxn] at hw
  apply inCal_hold
  · exact ⟨h1, h2, h3, h4, h5, h6, h7, h8, fun _ => hop, h10⟩
  · exact hr
  · exact hp
  · simp [htx, a1]
  · exact hw.symm
  · simp [hlv, a3]
  · exact hcr
  · exact hco
  · simp [a1, a2]

theorem inCal_tick {s} (h : InCal s) (t) : InCal (countTick t s) := by
  obtain ⟨h1,h2,h3,h4,h5,h6,h7,h8,h9,h10⟩ := h
  constructor <;> simp_all [State.sampleIdx]

theorem advanceInv_txn {s} (h : BlockInv s) (hop : s.op = .cal) (code inp f) 
   (hf : ∀ d, AdvanceInv (f d { s with supPending := false })) (_hn : s.substep ≠ .aPulse): AdvanceInv (awaitTxn code inp f s) := by
  unfold awaitTxn
  have hrun : s.calState.running = true := by
    have := h.point; rw [hop] at this; cases hc : s.calState <;> simp_all [legalPoint, CalState.awaits, CalState.running]
  rcases txnStep_cases inp.tick inp.rsp s with ⟨d, e, -⟩ | e | e <;> rw [e]
  · exact hf d
  · exact inCal_raise (inCal_tick (blockInv_inCal h hop).1 _) _ _ (by simpa using hrun)
  · exact blockInv_tick h _

theorem offsetInBounds_of_not (c : Cfg) (o : Word) (h : ¬ (o.toInt < c.offsetMin.toInt || c.offsetMax.toInt < o.toInt) = true) : c.offsetInBounds o = true := by
  simp [Cfg.offsetInBounds] at *; omega
theorem gainInBounds_of_not (c : Cfg) (o : Word) (h : ¬ (o.toInt < c.gainMin.toInt || c.gainMax.toInt < o.toInt) = true) : c.gainInBounds o = true := by
  simp [Cfg.gainInBounds] at *; omega

theorem inCal_session {s} (h : InCal s) (x : Session) (hx : x.settleMs = s.ses.settleMs) (p : Bool) : InCal { s with ses := x, supPending := p } := by
  obtain ⟨h1,h2,h3,h4,h5,h6,h7,h8,h9,h10⟩ := h
  exact ⟨h1,h2,h3,h4,by simpa [hx] using h5,h6,h7,h8,h9,h10⟩

theorem advanceInv_readCal {s} (h : BlockInv s) (hop : s.op = .cal) (hc : s.calState = .readCal) (inp) : AdvanceInv (readCalStep inp s) := by
  have ⟨hm, hr⟩ := blockInv_inCal h hop
  have hp := h.point; rw [hop, hc] at hp
  have htx := h.txEn; have hlv := h.logValid; have hsp := h.pending
  unfold readCalStep
  split <;> rename_i hs <;> try simp only [hs, reduceCtorEq, iff_false, Bool.not_eq_true] at htx hlv
  · exact ⟨_, rfl, inCal_emit hm hr _ _ _ (by decide) (by rw [hc]; rfl) rfl htx hlv (by simp [hc, CalState.constantsRead]) (by simp [hc])⟩
  · refine advanceInv_txn h hop _ _ _ (fun d => ⟨_, rfl, ?_⟩) (by simp [hs])
    exact inCal_emit (s := (State.setBoardId { s with supPending := false } d)) (inCal_session hm _ (by simp) _) hr 2 0 .tRoff (by decide) (by show (s.calState).awaits.contains _ = true; rw [hc]; rfl) rfl htx hlv (by show (s.calState).constantsRead = true → _; simp [hc, CalState.constantsRead]) (by show s.calState = _ → _; simp [hc])
  · refine advanceInv_txn h hop _ _ _ (fun d => ⟨_, rfl, ?_⟩) (by simp [hs])
    exact inCal_emit (s := (State.setOffset { s with supPending := false } d)) (inCal_session hm _ (by simp) _) hr 3 0 .tRgain (by decide) (by show (s.calState).awaits.contains _ = true; rw [hc]; rfl) rfl htx hlv (by show (s.calState).constantsRead = true → _; simp [hc, CalState.constantsRead]) (by show s.calState = _ → _; simp [hc])
  · refine advanceInv_txn h hop _ _ _ (fun d => ?_) (by simp [hs])
    show BlockInv (checkReadBack _)
    have hm' : InCal (State.setGain { s with supPending := false } d) := inCal_session hm _ (by simp) _
    have hc' : (State.setGain { s with supPending := false } d).calState = .readCal := hc
    have hr' : RetryInCap (State.setGain { s with supPending := false } d) := hr
    have hq : NothingOutstanding (State.setGain { s with supPending := false } d) := ⟨htx, rfl, hlv⟩
    generalize State.setGain { s with supPending := false } d = u at *
    unfold checkReadBack
    split
    · exact inCal_raise hm' _ _ (by rw [hc']; rfl)
    split
    · exact inCal_raise hm' _ _ (by rw [hc']; rfl)
    · exact inCal_goto hm' hr' hq _ (fun _ => ⟨offsetInBounds_of_not _ _ ‹_›, gainInBounds_of_not _ _ ‹_›⟩) (by simp) (.inr rfl)
  · rename_i a b c
    revert hp; cases hs' : s.substep <;> simp_all [legalPoint, CalState.awaits]

theorem advanceInv_set {s} (h : BlockInv s) (hop : s.op = .cal) (p : Point) (hc : s.calState = p.setState) (inp) : AdvanceInv (setStep p inp s) := by
  have ⟨hm, hr⟩ := blockInv_inCal h hop
  have hp := h.point; rw [hop, hc] at hp
  have htx := h.txEn; have hlv := h.logValid; have hsp := h.pending
  have hk : ConstantsInBounds s := h.constants hop (by rw [hc]; cases p <;> rfl)
  have ha : ∀ w, s.calState.awaits.contains w = ([Await.entry, .tSet, .wSettle] : List Await).contains w := by rw [hc]; cases p <;> exact fun _ => rfl
  have hnw : s.calState ≠ .writeCal := by rw [hc]; cases p <;> simp [Point.setState]
  unfold setStep
  split <;> rename_i hs <;> try simp only [hs, reduceCtorEq, iff_false, Bool.not_eq_true] at htx hlv
  · exact ⟨_, rfl, inCal_emit hm hr _ _ _ (by decide) (by rw [ha]; rfl) rfl htx hlv (fun _ => hk) (fun e => absurd e hnw)⟩
  · refine advanceInv_txn h hop _ _ _ (fun d => ?_) (by simp [hs])
    show BlockInv (startSettle _ _)
    unfold startSettle
    rw [if_neg (by exact hm.settle)]
    obtain ⟨h1,h2,h3,h4,h5,h6,h7,h8,h9,h10⟩ := hm
    refine inCal_hold ⟨h1,h2,h3,h4,h5,h6,h7,h8,h9,h10⟩ hr (by show s.calState.awaits.contains _ = true; rw [ha]; rfl) (by simp [htx]) rfl (by simp [hlv]) (fun _ => hk) (fun e => absurd e hnw) (by simp)
  · show BlockInv (settleStep _ _ _)
    unfold settleStep
    simp only
    split
    · refine inCal_goto (inCal_tick hm _) (by simpa [RetryInCap] using hr) ?_ _ (fun _ => by simpa [ConstantsInBounds] using hk) (by cases p <;> simp [Point.measState]) (.inr (by cases p <;> rfl))
      simp [NothingOutstanding, htx, hlv, hsp, hs, Await.isTxn]
    · exact blockInv_tick h _
  · revert hp; cases hs' : s.substep <;> cases p <;> simp_all [legalPoint, CalState.awaits, Point.setState]


theorem advanceInv_compute {s} (h : BlockInv s) (hop : s.op = .cal) (hc : s.calState = .compute) : AdvanceInv (computeStep s) := by
  have ⟨hm, hr⟩ := blockInv_inCal h hop
  have hp := h.point; rw [hop, hc] at hp
  have htx := h.txEn; have hlv := h.logValid; have hsp := h.pending
  have hk : ConstantsInBounds s := h.constants hop (by rw [hc]; rfl)
  unfold computeStep
  split <;> rename_i hs <;> try simp only [hs, reduceCtorEq, iff_false, Bool.not_eq_true] at htx hlv
  · have hd : correctionDefined s.cfg s.ses = true := by
      have := hm.config
      have hg := hk.2
      unfold configCheck at this
      unfold correctionDefined
      simp only [Cfg.gainInBounds, Bool.and_eq_true, decide_eq_true_eq] at hg
      split_ifs at this with a b c d e f
      simp only [b, Bool.not_false, Bool.true_and, decide_eq_true_eq, Bool.not_eq_true] at *
      simp; omega
    rw [if_pos hd]
    show BlockInv (computeBody s)
    unfold computeBody
    split
    · exact inCal_raise hm _ _ (by rw [hc]; rfl)
    · rename_i k hk'
      have hm' : InCal (s.storeCorrection k) := by
        obtain ⟨h1,h2,h3,h4,h5,h6,h7,h8,h9,h10⟩ := hm
        exact ⟨h1,h2,h3,h4,h5,h6,h7,h8,h9,h10⟩
      have hco : CorrectionInBounds (s.storeCorrection k) := by
        unfold computeCorrection at hk'
        simp only at hk'
        split_ifs at hk' with a b c
        cases hk'
        simp only [Bool.or_eq_true, decide_eq_true_eq, not_or, not_lt] at b c
        have l1 := BitVec.le_toInt s.cfg.offsetMin
        have l2 := BitVec.toInt_lt (x := s.cfg.offsetMax)
        have l3 := BitVec.le_toInt s.cfg.gainMin
        have l4 := BitVec.toInt_lt (x := s.cfg.gainMax)
        have key : ∀ z : Int, -(2^31) ≤ z → z < 2^31 → (BitVec.ofInt 32 z).toInt = z := by
          intro z h1 h2
          rw [BitVec.toInt_ofInt, Int.bmod_def]; split <;> omega
        refine ⟨?_, ?_⟩ <;> simp only [Cfg.offsetInBounds, Cfg.gainInBounds, Bool.and_eq_true, decide_eq_true_eq]
        · show s.cfg.offsetMin.toInt ≤ (BitVec.ofInt 32 _).toInt ∧ (BitVec.ofInt 32 _).toInt ≤ s.cfg.offsetMax.toInt
          rw [key _ (by simp only; omega) (by simp only; omega)]; exact b
        · show s.cfg.gainMin.toInt ≤ (BitVec.ofInt 32 _).toInt ∧ (BitVec.ofInt 32 _).toInt ≤ s.cfg.gainMax.toInt
          rw [key _ (by simp only; omega) (by simp only; omega)]; exact c
      have hr' : RetryInCap (s.storeCorrection k) := hr
      have hk2 : ConstantsInBounds (s.storeCorrection k) := hk
      have hq : NothingOutstanding (s.storeCorrection k) := ⟨htx, by rw [State.storeCorrection_supPending, hsp, hs]; rfl, hlv⟩
      have hw : ∀ w p, InCal ((s.storeCorrection k).setRound w p) := by
        intro w p
        obtain ⟨h1,h2,h3,h4,h5,h6,h7,h8,h9,h10⟩ := hm'
        exact ⟨h1,h2,h3,h4,h5,h6,h7,h8,h9,h10⟩
      generalize s.storeCorrection k = u at *
      unfold stopDecision
      split
      · exact inCal_goto (s := u.setRound false false) (hw _ _) hr' hq .writeCal (fun _ => hk2) (fun _ => hco) (.inr rfl)
      · exact inCal_goto (s := u.setRound false true) (hw _ _) hr' hq .writeCal (fun _ => hk2) (fun _ => hco) (.inr rfl)
      · exact inCal_goto (s := u.setRound false true) (hw _ _) hr' hq .logRound (fun _ => hk2) (fun _ => hco) (.inr rfl)
      · exact inCal_goto (s := u.setRound false u.roundStop) (hw _ _) hr' hq .writeCal (fun _ => hk2) (fun _ => hco) (.inr rfl)
  · revert hp; cases hs' : s.substep <;> simp_all [legalPoint, CalState.awaits]

theorem advanceInv_write {s} (h : BlockInv s) (hop : s.op = .cal) (hc : s.calState = .writeCal) (inp) : AdvanceInv (writeCalStep inp s) := by
  have ⟨hm, hr⟩ := blockInv_inCal h hop
  have hp := h.point; rw [hop, hc] at hp
  have htx := h.txEn; have hlv := h.logValid; have hsp := h.pending
  have hk : ConstantsInBounds s := h.constants hop (by rw [hc]; rfl)
  have hco : CorrectionInBounds s := h.correction hop hc
  unfold writeCalStep
  split <;> rename_i hs <;> try simp only [hs, reduceCtorEq, iff_false, Bool.not_eq_true] at htx hlv
  · exact ⟨_, rfl, inCal_emit hm hr _ _ _ (by decide) (by rw [hc]; rfl) rfl htx hlv (fun _ => hk) (fun _ => hco)⟩
  · refine advanceInv_txn h hop _ _ _ (fun d => ⟨_, rfl, ?_⟩) (by simp [hs])
    exact inCal_emit (s := (State.setOffset { s with supPending := false } s.ses.newOffset)) (inCal_session hm _ (by simp) _) hr 6 s.ses.newGain .tWgain (by decide) (by show (s.calState).awaits.contains _ = true; rw [hc]; rfl) rfl htx hlv (fun _ => ⟨hco.1, hk.2⟩) (fun _ => hco)
  · refine advanceInv_txn h hop _ _ _ (fun d => ?_) (by simp [hs])
    show BlockInv (gotoState _ _)
    refine inCal_goto (s := (State.setGain { s with supPending := false } s.ses.newGain).setRound true s.roundStop) ?_ hr ⟨htx, rfl, hlv⟩ .logRound (fun _ => ⟨hk.1, hco.2⟩) (fun _ => hco) (.inr rfl)
    obtain ⟨h1,h2,h3,h4,h5,h6,h7,h8,h9,h10⟩ := hm
    exact ⟨h1,h2,h3,h4,h5,h6,h7,h8,h9,h10⟩
  · revert hp; cases hs' : s.substep <;> simp_all [legalPoint, CalState.awaits]

theorem advanceInv_log {s} (h : BlockInv s) (hop : s.op = .cal) (hc : s.calState = .logRound) (inp) : AdvanceInv (logRoundStep inp s) := by
  have ⟨hm, hr⟩ := blockInv_inCal h hop
  have hp := h.point; rw [hop, hc] at hp
  have htx := h.txEn; have hlv := h.logValid; have hsp := h.pending
  have hk : ConstantsInBounds s := h.constants hop (by rw [hc]; rfl)
  unfold logRoundStep
  split <;> rename_i hs <;> try simp only [hs, reduceCtorEq, iff_false, Bool.not_eq_true] at htx hlv
  · exact ⟨_, rfl, inCal_emit hm hr _ _ _ (by decide) (by rw [hc]; rfl) rfl htx hlv (fun _ => hk) (by simp [hc])⟩
  · refine advanceInv_txn h hop _ _ _ (fun d => ?_) (by simp [hs])
    show BlockInv (emitLog _)
    obtain ⟨h1,h2,h3,h4,h5,h6,h7,h8,h9,h10⟩ := hm
    exact inCal_hold ⟨h1,h2,h3,h4,h5,h6,h7,h8,h9,h10⟩ hr (by show (s.calState).awaits.contains _ = true; rw [hc]; rfl) (by simp [htx]) rfl (by simp) (fun _ => hk) (by show s.calState = _ → _; simp [hc]) (by simp)
  · split
    · show BlockInv (finishRound s)
      unfold finishRound
      have hm' : InCal s.endRow.growSettle := by
        obtain ⟨h1,h2,h3,h4,h5,h6,h7,h8,h9,h10⟩ := hm
        exact ⟨h1,h2,h3,h4,grow_ne_zero _ h5,h6,h7,h8,h9,h10⟩
      have hr' : RetryInCap s.endRow.growSettle := hr
      have hk2 : ConstantsInBounds s.endRow.growSettle := hk
      have hq : NothingOutstanding s.endRow.growSettle := ⟨htx, by simp [hsp, hs, Await.isTxn], rfl⟩
      have hc' : s.endRow.growSettle.calState = .logRound := hc
      generalize s.endRow.growSettle = u at *
      unfold terminateOrRepeat
      split_ifs
      · exact inCal_goto hm' hr' hq _ (by simp [CalState.constantsRead]) (by simp) (.inl rfl)
      · exact inCal_goto hm' hr' hq _ (by simp [CalState.constantsRead]) (by simp) (.inl rfl)
      · exact inCal_raise hm' _ _ (by rw [hc']; rfl)
      · exact inCal_goto hm' hr' hq _ (by simp [CalState.constantsRead]) (by simp) (.inl rfl)
      · refine inCal_goto (s := u.setRound false false) ?_ hr' hq .setLow (fun _ => hk2) (by simp) (.inr rfl)
        obtain ⟨h1,h2,h3,h4,h5,h6,h7,h8,h9,h10⟩ := hm'
        exact ⟨h1,h2,h3,h4,h5,h6,h7,h8,h9,h10⟩
    · exact h
  · revert hp; cases hs' : s.substep <;> simp_all [legalPoint, CalState.awaits]

theorem inCal_settle {s} (h : InCal s) (x : Session) (hx : x.settleMs ≠ 0) : InCal { s with ses := x } := by
  obtain ⟨h1,h2,h3,h4,h5,h6,h7,h8,h9,h10⟩ := h
  exact ⟨h1,h2,h3,h4,hx,h6,h7,h8,h9,h10⟩

/-- A measurement in the middle of a step. -/
structure MeasCtx (p : Point) (s : State) : Prop where
  mid : InCal s
  retry : RetryInCap s
  quiet : NothingOutstanding s
  consts : ConstantsInBounds s
  state : s.calState = p.measState

theorem advanceInv_loop {s p} (m : MeasCtx p s) (hle : s.sampleIdx ≤ s.cfg.nSamples.toNat) : AdvanceInv (measureLoop p s) := by
  obtain ⟨hm, hr, hq, hk, hc⟩ := m
  have hn0 : s.cfg.nSamples.toNat ≠ 0 := by
    intro e
    have := hm.config
    unfold configCheck at this
    simp [e] at this
  unfold measureLoop
  split
  · rename_i hlt
    obtain ⟨h1,h2,h3,h4,h5,h6,h7,h8,h9,h10⟩ := hm
    have hh : s.calState.awaits.contains .aPulse = true := by rw [hc]; cases p <;> rfl
    have hw : s.calState ≠ .writeCal := by rw [hc]; cases p <;> simp [Point.measState]
    exact inCal_hold (s := startAcq .cal s) ⟨rfl,h2,h3,h4,h5,h6,(by simp),h8,h9,h10⟩ hr hh (by simp) hq.2.1 (by simp [hq.2.2]) (fun _ => hk) (fun e => absurd e hw) (fun _ => hlt)
  · unfold finishBatch
    have hlen : s.sampleBuf.length = s.cfg.nSamples.toNat := by unfold State.sampleIdx at *; omega
    have := batchOf_isSome s.sampleBuf (by omega)
    rw [hlen] at this
    have hrun : s.calState.running = true := by rw [hc]; cases p <;> rfl
    split
    · rename_i b hb
      split
      · show BlockInv (rejectBatch p s)
        unfold rejectBatch
        have hb1 : s.countReject.batchRetry = s.batchRetry + 1 := rfl
        have hb2 : s.countReject.batchRetry.toNat ≤ 256 := by
          rw [hb1]
          have := hr; unfold RetryInCap at this
          have l := s.cfg.maxBatchRetries.isLt
          rw [BitVec.toNat_add]; simp; omega
        have hm' : InCal s.countReject := by
          obtain ⟨h1,h2,h3,h4,h5,h6,h7,h8,h9,h10⟩ := hm
          exact ⟨h1,h2,h3,h4,h5,hb2,h7,h8,h9,h10⟩
        simp only
        split
        · exact inCal_raise hm' _ _ hrun
        · rename_i hnr
          refine inCal_goto (s := s.countReject.growSettle) (inCal_settle hm' _ (grow_ne_zero _ hm'.settle)) ?_ hq p.setState (fun _ => hk) (by cases p <;> simp [Point.setState]) (.inr (by cases p <;> rfl))
          unfold RetryInCap
          exact Nat.le_of_not_lt hnr
      · show BlockInv (acceptBatch p b.median s)
        unfold acceptBatch
        obtain ⟨h1,h2,h3,h4,h5,h6,h7,h8,h9,h10⟩ := hm
        cases p
        · exact inCal_goto (s := s.clearBatchRetry.setMeasured .low b.median) ⟨h1,h2,h3,h4,h5,(by simp [State.setMeasured]),h7,h8,h9,h10⟩ (by simp [RetryInCap, State.setMeasured]) hq .setHigh (fun _ => hk) (by simp) (.inr rfl)
        · exact inCal_goto (s := s.clearBatchRetry.setMeasured .high b.median) ⟨h1,h2,h3,h4,h5,(by simp [State.setMeasured]),h7,h8,h9,h10⟩ (by simp [RetryInCap, State.setMeasured]) hq .compute (fun _ => hk) (by simp) (.inr rfl)
    · rename_i hb; rw [hb] at this; cases this

theorem advanceInv_fail {s p} (m : MeasCtx p s) (hle : s.sampleIdx ≤ s.cfg.nSamples.toNat) : AdvanceInv (sampleFailed p s) := by
  obtain ⟨hm, hr, hq, hk, hc⟩ := m
  have hm' : InCal s.countAcqFail := inCal_settle hm _ hm.settle
  unfold sampleFailed
  simp only
  split
  · exact inCal_raise hm' _ _ (by show s.calState.running = true; rw [hc]; cases p <;> rfl)
  · exact advanceInv_loop ⟨hm', hr, hq, hk, hc⟩ hle

theorem inCal_sampleEnd {s} (b : BuildParams) (hbb : b = Config.build) (h : InCal s) : InCal (sampleEnd b s).1 := by
  unfold sampleEnd
  obtain ⟨h1,h2,h3,h4,h5,h6,h7,h8,h9,h10⟩ := h
  split
  · exact ⟨h1,h2,h3,h4,h5,h6,h7,(by simp),h9,h10⟩
  · exact ⟨h1,h2,h3,h4,h5,h6,h7,(by simp [hbb]),h9,h10⟩

theorem sampleEnd_same (b : BuildParams) (s : State) : (sampleEnd b s).1.cfg = s.cfg ∧ (sampleEnd b s).1.ses = s.ses ∧ (sampleEnd b s).1.batchRetry = s.batchRetry ∧ (sampleEnd b s).1.txEn = s.txEn ∧ (sampleEnd b s).1.supPending = s.supPending ∧ (sampleEnd b s).1.logValid = s.logValid ∧ (sampleEnd b s).1.calState = s.calState ∧ (sampleEnd b s).1.sampleBuf = s.sampleBuf ∧ (sampleEnd b s).1.op = s.op ∧ (sampleEnd b s).1.substep = s.substep ∧ (sampleEnd b s).1.errCode = s.errCode ∧ (sampleEnd b s).1.done = s.done ∧ (sampleEnd b s).1.rxcnt = s.rxcnt := by
  unfold sampleEnd
  split <;> simp

theorem advanceInv_meas {s} (h : BlockInv s) (hop : s.op = .cal) (p : Point) (hc : s.calState = p.measState) (inp) : AdvanceInv (measStep Config.build p inp s) := by
  have ⟨hm, hr⟩ := blockInv_inCal h hop
  have hp := h.point; rw [hop, hc] at hp
  have htx := h.txEn; have hlv := h.logValid; have hsp := h.pending
  have hk : ConstantsInBounds s := h.constants hop (by rw [hc]; cases p <;> rfl)
  unfold measStep
  split <;> rename_i hs <;> try simp only [hs, reduceCtorEq, iff_false, Bool.not_eq_true] at htx hlv
  · have hm0 : InCal s.startBatch := by
      obtain ⟨h1,h2,h3,h4,h5,h6,h7,h8,h9,h10⟩ := hm
      exact ⟨h1,h2,h3,h4,h5,h6,h7,h8,h9,by simp [State.sampleIdx]⟩
    exact advanceInv_loop (s := s.startBatch) ⟨hm0, hr, ⟨htx, by rw [State.startBatch_supPending, hsp, hs]; rfl, hlv⟩, hk, hc⟩ (by simp [State.sampleIdx])
  · show BlockInv (pulsePhase _ _ _)
    have ht := blockInv_tick h inp.tick
    unfold pulsePhase
    split
    · obtain ⟨h1,h2,h3,h4,h5,h6,h7,h8,h9,h10⟩ := inCal_tick hm inp.tick
      have hh : s.calState.awaits.contains .aRead = true := by rw [hc]; cases p <;> rfl
      have hw : s.calState ≠ .writeCal := by rw [hc]; cases p <;> simp [Point.measState]
      refine inCal_hold (s := endPulse .cal (countTick inp.tick s)) ⟨rfl,h2,h3,h4,h5,h6,h7,h8,h9,h10⟩ ?_ ?_ (by simp) ?_ ?_ ?_ ?_ ?_
      · simpa [RetryInCap] using hr
      · simpa using hh
      · simp [hsp, hs, Await.isTxn]
      · simp [hlv]
      · intro _; simpa [ConstantsInBounds] using hk
      · intro e; simp at e; exact absurd e hw
      · have := h.batch hop (.inl hs); simpa [State.sampleIdx] using this
    · exact ht
  · unfold measureRead
    have ht := blockInv_tick h inp.tick
    have hlt := h.batch hop (.inr hs)
    have m : MeasCtx p (countTick inp.tick s) := ⟨inCal_tick hm _, by simpa [RetryInCap] using hr, by simp [NothingOutstanding, htx, hlv, hsp, hs, Await.isTxn], by simpa [ConstantsInBounds] using hk, by simpa using hc⟩
    have hlt' : (countTick inp.tick s).sampleIdx < (countTick inp.tick s).cfg.nSamples.toNat := by simpa [State.sampleIdx] using hlt
    simp only
    generalize countTick inp.tick s = u at *
    split
    · exact ht
    · exact advanceInv_fail m (by omega)
    · have m1 : MeasCtx p u.takeFrame := by
        obtain ⟨⟨h1,h2,h3,h4,h5,h6,h7,h8,h9,h10⟩,b,c,d,e⟩ := m
        exact ⟨⟨h1,h2,h3,h4,h5,h6,h7,h8,h9,h10⟩,b,c,d,e⟩
      have hlt2 : u.takeFrame.sampleIdx < u.takeFrame.cfg.nSamples.toNat := hlt'
      generalize u.takeFrame = w at *
      obtain ⟨a1,a2,a3,a4,a5,a6,a7,a8,-⟩ := sampleEnd_same Config.build w
      have m2 : MeasCtx p (sampleEnd Config.build w).1 := by
        obtain ⟨c1,c2,c3,c4,c5⟩ := m1
        exact ⟨inCal_sampleEnd _ rfl c1, by unfold RetryInCap at *; rw [a3, a1]; exact c2, by unfold NothingOutstanding at *; rw [a4,a5,a6]; exact c3, by unfold ConstantsInBounds at *; rw [a1, a2]; exact c4, by rw [a7]; exact c5⟩
      have hlt3 : (sampleEnd Config.build w).1.sampleIdx < (sampleEnd Config.build w).1.cfg.nSamples.toNat := by
        unfold State.sampleIdx at *; rw [a8, a1]; exact hlt2
      split
      · rename_i v i he; rw [he] at m2 hlt3; exact advanceInv_fail m2 (Nat.le_of_lt hlt3)
      · rename_i v he; rw [he] at m2 hlt3
        obtain ⟨c1,c2,c3,c4,c5⟩ := m2
        refine advanceInv_loop (s := v.pushSample) ⟨?_, c2, c3, c4, c5⟩ ?_
        · obtain ⟨h1,h2,h3,h4,h5,h6,h7,h8,h9,h10⟩ := c1
          refine ⟨h1,h2,h3,h4,h5,h6,h7,h8,h9,?_⟩
          have hn : v.cfg.nSamples.toNat ≤ Config.nMax := by
            unfold configCheck at h4
            split_ifs at h4 with a
            simp at a; omega
          obtain ⟨x, y⟩ := h10
          simp only [State.sampleIdx, State.pushSample_sampleBuf, List.length_append, List.length_singleton, List.map_append, List.map_cons, List.map_nil] at *
          rw [y, List.range_succ]
          exact ⟨by omega, rfl⟩
        · simp [State.sampleIdx] at hlt3 ⊢; omega
  · revert hp; cases hs' : s.substep <;> cases p <;> simp_all [legalPoint, CalState.awaits, Point.measState]

theorem advanceInv_pulse {s} (h : BlockInv s) (a b : Op) (hab : (a = .acqPulse ∧ b = .acqRead) ∨ (a = .smpPulse ∧ b = .smpRead)) (ho : s.op = a) (t) : BlockInv (pulsePhase b t s) := by
  have ht := blockInv_tick h t
  unfold pulsePhase
  split
  · have hp := ht.point
    have hlv := ht.logValid
    have hpn := ht.pending
    have hop : (countTick t s).op = a := by simpa using ho
    generalize countTick t s = u at *
    obtain ⟨h1,h2,h3,h4,h5,h6,h7,h8,h9,h10,h11,h12,h13,h14,h15⟩ := ht
    rcases hab with ⟨rfl, rfl⟩ | ⟨rfl, rfl⟩ <;> rw [hop] at hp <;> simp [legalPoint] at hp <;>
      (have h6' := h6 (by simp [hop])
       exact ⟨by simp [legalPoint, hp], by simp, by rw [endPulse_supPending, hpn, hp.2]; rfl, by simp [hlv, hp], h5, fun _ => h6', by simp, by simp, ⟨h9.1, by simp⟩, by simp, by simp, by simp, h13, h14, h15⟩)
  · exact ht

theorem idleEnd {s : State} (rv : s.readValid = true → s.recValid = true ∧ s.rd = mapCore Config.build s.record) (so : s.supReqValid = true → 1 ≤ s.supReqOp.toNat ∧ s.supReqOp.toNat ≤ 7)
   (hc : s.calState.running = false) (htx : s.txEn = false) (hp : s.supPending = false) (hl : s.logValid = false) (h5 : s.rxcnt.toNat ≤ 35) (h9 : s.batchRetry.toNat ≤ 256) (hs : s.sampleIdx ≤ Config.nMax ∧ s.sampleBuf.map Sample.arrival = List.range s.sampleIdx) : BlockInv s.complete :=
  ⟨by simp [legalPoint, hc], by simp [htx], hp, by simp [hl], h5, by simp, by simp, by simp, ⟨h9, by simp⟩, by simp, by simp, by simp, rv, so, hs⟩

theorem raiseError_eq_complete {s : State} (e i) (hc : s.calState.running = false) : raiseError e i s = (s.setErr e i).complete := by
  unfold raiseError; rw [hc]; rfl

theorem advanceInv_reads {s} (h : BlockInv s) (ho : s.op = .acqRead ∨ s.op = .smpRead) (t) : BlockInv (acquireRead t s) ∧ BlockInv (sampleRead Config.build t s) := by
  have ht := blockInv_tick h t
  have hop : (countTick t s).op = .acqRead ∨ (countTick t s).op = .smpRead := by simpa using ho
  unfold acquireRead sampleRead
  simp only
  generalize countTick t s = u at *
  have hp := ht.point
  have hx : u.calState.running = false ∧ u.substep = .aRead := by
    rcases hop with e | e <;> rw [e] at hp <;> simpa [legalPoint] using hp
  have htx : u.txEn = false := by
    have := ht.txEn; rw [hx.2] at this; simpa using this
  have hlv : u.logValid = false := by
    have := ht.logValid; rw [hx.2] at this; simpa using this
  have hsp : u.supPending = false := by rw [ht.pending, hx.2]; rfl
  have tmo : BlockInv (raiseError .transportTimeout u.rxcnt u) := by
    rw [raiseError_eq_complete _ _ hx.1]
    exact idleEnd (s := u.setErr _ _) ht.reading ht.supplyOp hx.1 htx hsp hlv ht.rxcnt ht.retry.1 ht.samples
  constructor
  · split
    · exact ht
    · exact idleEnd (s := u.takeFrame) ht.reading ht.supplyOp hx.1 htx hsp hlv ht.rxcnt ht.retry.1 ht.samples
    · exact tmo
  · split
    · exact ht
    · unfold sampleEnd
      split
      · rename_i he
        split at he <;> cases he
        exact idleEnd (by simp) ht.supplyOp hx.1 htx hsp hlv ht.rxcnt ht.retry.1 ht.samples
      · rename_i he
        split at he <;> cases he
        rw [raiseError_eq_complete _ _ (by simpa using hx.1)]
        exact idleEnd (s := (u.takeFrame.dropRecord).setErr _ _) (by simp) ht.supplyOp hx.1 htx hsp hlv ht.rxcnt ht.retry.1 ht.samples
    · exact tmo

theorem advanceInv_advance {s} (h : BlockInv s) (inp) : AdvanceInv (advance Config.build inp s) := by
  unfold advance
  split <;> rename_i ho
  · exact h
  · exact advanceInv_pulse h _ _ (.inl ⟨rfl, rfl⟩) ho _
  · exact (advanceInv_reads h (.inl ho) _).1
  · exact advanceInv_pulse h _ _ (.inr ⟨rfl, rfl⟩) ho _
  · exact (advanceInv_reads h (.inr ho) _).2
  · unfold calStep
    have hp := h.point; rw [ho] at hp
    split <;> rename_i hc
    · exact advanceInv_readCal h ho hc _
    · exact advanceInv_set h ho .low hc _
    · exact advanceInv_meas h ho .low hc _
    · exact advanceInv_set h ho .high hc _
    · exact advanceInv_meas h ho .high hc _
    · exact advanceInv_compute h ho hc
    · exact advanceInv_write h ho hc _
    · exact advanceInv_log h ho hc _
    all_goals rw [hc] at hp; simp [legalPoint, CalState.awaits] at hp

end Sys2Proof.Laws
end

