-- ==== Sys2Proof/Laws/PerInstr.lean ====
section
/-! SUPPORT. Statements made per instruction: the encoder's word has the fixed bits of the instruction's row in spec/opcode_table.json. -/

namespace Sys2Proof.Laws

namespace TablePattern

/-- The mask and match of the instruction's row (spec/opcode_table.json). -/
def row : Instr → Nat × Nat
  | .nop => (0xFFFFFFFF, 0x00000000)
  | .acquire => (0xFFFFFFFF, 0x00000001)
  | .decode => (0xFFFFFFFF, 0x00000002)
  | .map => (0xFFFFFFFF, 0x00000003)
  | .sample => (0xFFFFFFFF, 0x00000004)
  | .calStart => (0xFFFFFFFF, 0x00000010)
  | .calStopKeep => (0xFFFFFFFF, 0x00000011)
  | .calStopAdjust => (0xFFFFFFFF, 0x00000012)
  | .calAbort => (0xFFFFFFFF, 0x00000013)
  | .clear => (0xFFFFFFFF, 0x0000001E)
  | .softReset => (0xFFFFFFFF, 0x0000001F)
  | .symbol _ => (0xC3, 0x43)
  | .supIdentify _ => (0xF, 0x1)
  | .supReadOffset _ => (0xF, 0x2)
  | .supReadGain _ => (0xF, 0x3)
  | .supSetOutput _ => (0xF, 0x4)
  | .supWriteOffset _ => (0xF, 0x5)
  | .supWriteGain _ => (0xF, 0x6)
  | .supReadTemp _ => (0xF, 0x7)

/-- The bits of a port's word that the table numbers: a command's 32, a symbol's 8, a request's op. -/
def bits : PortWord → Nat
  | .command v => v.toNat
  | .transport b => b.toNat
  | .supply op _ => op.toNat

/-- The encoded word has the row's fixed bits, whatever the operands. -/
def Statement (i : Instr) : Prop := bits (encode i) &&& (row i).1 = (row i).2

theorem nop : Statement .nop := rfl
theorem acquire : Statement .acquire := rfl
theorem decode : Statement .decode := rfl
theorem map : Statement .map := rfl
theorem sample : Statement .sample := rfl
theorem calStart : Statement .calStart := rfl
theorem calStopKeep : Statement .calStopKeep := rfl
theorem calStopAdjust : Statement .calStopAdjust := rfl
theorem calAbort : Statement .calAbort := rfl
theorem clear : Statement .clear := rfl
theorem softReset : Statement .softReset := rfl

theorem symbol (nibble : BitVec 4) : Statement (.symbol nibble) := by
  have h : ∀ n : BitVec 4, (symbolOf n).toNat &&& 0xC3 = 0x43 := by decide
  exact h nibble

theorem supIdentify (arg : Word) : Statement (.supIdentify arg) := by
  show (1 : BitVec 4).toNat &&& 0xF = 1
  decide

theorem supReadOffset (arg : Word) : Statement (.supReadOffset arg) := by
  show (2 : BitVec 4).toNat &&& 0xF = 2
  decide

theorem supReadGain (arg : Word) : Statement (.supReadGain arg) := by
  show (3 : BitVec 4).toNat &&& 0xF = 3
  decide

theorem supSetOutput (arg : Word) : Statement (.supSetOutput arg) := by
  show (4 : BitVec 4).toNat &&& 0xF = 4
  decide

theorem supWriteOffset (arg : Word) : Statement (.supWriteOffset arg) := by
  show (5 : BitVec 4).toNat &&& 0xF = 5
  decide

theorem supWriteGain (arg : Word) : Statement (.supWriteGain arg) := by
  show (6 : BitVec 4).toNat &&& 0xF = 6
  decide

theorem supReadTemp (arg : Word) : Statement (.supReadTemp arg) := by
  show (7 : BitVec 4).toNat &&& 0xF = 7
  decide


end TablePattern

end Sys2Proof.Laws
end

