-- ==== Sys2Proof/Laws/Sequencer.lean ====
section
/-! SUPPORT. What the sequencer's step can and cannot change (spec/00_scope.md rule R10): one lemma that holds at every await point. -/

namespace Sys2Proof.Laws

open Sys2Proof.Machine

/-- What no part of P1's sequencer writes: the configuration, the latched stop request, `REJECT`, the supply port's valid bit (an issued request sets it, in exec), the bus's returned word and the environment's inputs. -/
structure SameHost (t s : State) : Prop where
  cfg : t.cfg = s.cfg
  stopReq : t.stopReq = s.stopReq
  reject : t.reject = s.reject
  supReqValid : t.supReqValid = s.supReqValid
  hostRdata : t.hostRdata = s.hostRdata
  inputs : t.inputs = s.inputs

theorem SameHost.refl (s : State) : SameHost s s := ⟨rfl, rfl, rfl, rfl, rfl, rfl⟩

theorem SameHost.trans {u t s : State} (h : SameHost u t) (g : SameHost t s) : SameHost u s :=
  ⟨h.1.trans g.1, h.2.trans g.2, h.3.trans g.3, h.4.trans g.4, h.5.trans g.5, h.6.trans g.6⟩

theorem SameHost.after {u t s : State} (g : SameHost t s) (h : SameHost u t) : SameHost u s := h.trans g

/-- A property of the state a step of the sequencer ends in; a stop has none. -/
def Advance.All (p : State → Prop) : Advance → Prop
  | .next s => p s
  | .issue _ s => p s
  | .stop _ => True

theorem raiseError_sameHost (e : ErrCode) (i : BitVec 6) (s : State) : SameHost (raiseError e i s) s := by
  unfold raiseError; split <;> exact ⟨rfl, rfl, rfl, rfl, rfl, rfl⟩

theorem gotoState_sameHost (c : CalState) (s : State) : SameHost (gotoState c s) s := by
  unfold gotoState; split
  · exact ⟨rfl, rfl, rfl, rfl, rfl, rfl⟩
  · split <;> exact ⟨rfl, rfl, rfl, rfl, rfl, rfl⟩

theorem countTick_sameHost (t : Bool) (s : State) : SameHost (countTick t s) s := by
  unfold countTick; split <;> exact ⟨rfl, rfl, rfl, rfl, rfl, rfl⟩

theorem capture_sameHost (b : Byte) (s : State) : SameHost (capture b s) s := by
  unfold capture State.pushByte; split
  · split <;> exact ⟨rfl, rfl, rfl, rfl, rfl, rfl⟩
  · exact SameHost.refl s

theorem setMeasured_sameHost (p : Point) (m : Sample) (s : State) : SameHost (s.setMeasured p m) s := by
  cases p <;> exact ⟨rfl, rfl, rfl, rfl, rfl, rfl⟩

theorem sampleEnd_sameHost (b : BuildParams) (s : State) : SameHost (sampleEnd b s).1 s := by
  unfold sampleEnd; split <;> exact ⟨rfl, rfl, rfl, rfl, rfl, rfl⟩

theorem pulsePhase_sameHost (l : Op) (t : Bool) (s : State) : SameHost (pulsePhase l t s) s := by
  unfold pulsePhase; split
  · exact SameHost.after (countTick_sameHost t s) ⟨rfl, rfl, rfl, rfl, rfl, rfl⟩
  · exact countTick_sameHost t s

theorem acquireRead_sameHost (t : Bool) (s : State) : SameHost (acquireRead t s) s := by
  unfold acquireRead; simp only
  refine SameHost.trans ?_ (countTick_sameHost t s)
  split
  · exact SameHost.refl _
  · exact ⟨rfl, rfl, rfl, rfl, rfl, rfl⟩
  · exact raiseError_sameHost _ _ _

theorem sampleRead_sameHost (b : BuildParams) (t : Bool) (s : State) : SameHost (sampleRead b t s) s := by
  unfold sampleRead; simp only
  refine SameHost.trans ?_ (countTick_sameHost t s)
  split
  · exact SameHost.refl _
  · refine SameHost.trans (t := (sampleEnd b (countTick t s).takeFrame).1) ?_ ((sampleEnd_sameHost b _).trans ⟨rfl, rfl, rfl, rfl, rfl, rfl⟩)
    split
    · rename_i v he; rw [he]; exact ⟨rfl, rfl, rfl, rfl, rfl, rfl⟩
    · rename_i v i he; rw [he]; exact raiseError_sameHost _ _ _
  · exact raiseError_sameHost _ _ _

theorem txnStep_sameHost (t : Bool) (rsp : Option Word) (s : State) : SameHost (txnStep t rsp s).2 s := by
  unfold txnStep; split
  · exact ⟨rfl, rfl, rfl, rfl, rfl, rfl⟩
  · simp only; split <;> exact countTick_sameHost t s

theorem awaitTxn_sameHost (op : BitVec 6) (inp : StepInput) (f : Word → State → Advance) (s : State)
    (hf : ∀ d t, SameHost t s → Advance.All (SameHost · s) (f d t)) : Advance.All (SameHost · s) (awaitTxn op inp f s) := by
  have h := txnStep_sameHost inp.tick inp.rsp s
  unfold awaitTxn
  split <;> rename_i u he <;> rw [he] at h
  · exact h
  · exact (raiseError_sameHost _ _ _).trans h
  · exact hf _ _ h

theorem finishBatch_sameHost (p : Point) (s : State) : Advance.All (SameHost · s) (finishBatch p s) := by
  unfold finishBatch; split
  · split
    · show SameHost (rejectBatch p s) s
      unfold rejectBatch; simp only; split
      · exact (raiseError_sameHost _ _ _).trans ⟨rfl, rfl, rfl, rfl, rfl, rfl⟩
      · exact (gotoState_sameHost _ _).trans ⟨rfl, rfl, rfl, rfl, rfl, rfl⟩
    · exact (gotoState_sameHost _ _).trans ((setMeasured_sameHost p _ _).trans ⟨rfl, rfl, rfl, rfl, rfl, rfl⟩)
  · trivial

theorem Advance.All.of_sameHost {a : Advance} {t s : State} (h : Advance.All (SameHost · t) a) (g : SameHost t s) :
    Advance.All (SameHost · s) a := by
  cases a with
  | next u => exact SameHost.trans h g
  | issue i u => exact SameHost.trans h g
  | stop f => trivial

theorem measureLoop_sameHost (p : Point) (s : State) : Advance.All (SameHost · s) (measureLoop p s) := by
  unfold measureLoop; split
  · exact ⟨rfl, rfl, rfl, rfl, rfl, rfl⟩
  · exact finishBatch_sameHost p s

theorem sampleFailed_sameHost (p : Point) (s : State) : Advance.All (SameHost · s) (sampleFailed p s) := by
  unfold sampleFailed; simp only; split
  · exact (raiseError_sameHost _ _ _).trans ⟨rfl, rfl, rfl, rfl, rfl, rfl⟩
  · exact (measureLoop_sameHost p _).of_sameHost ⟨rfl, rfl, rfl, rfl, rfl, rfl⟩

theorem measureRead_sameHost (b : BuildParams) (p : Point) (t : Bool) (s : State) :
    Advance.All (SameHost · s) (measureRead b p t s) := by
  have ht := countTick_sameHost t s
  unfold measureRead; simp only
  split
  · exact ht
  · exact (sampleFailed_sameHost p _).of_sameHost ht
  · have he := (sampleEnd_sameHost b (countTick t s).takeFrame).trans (SameHost.after ht ⟨rfl, rfl, rfl, rfl, rfl, rfl⟩)
    split <;> rename_i e <;> rw [e] at he
    · exact (sampleFailed_sameHost p _).of_sameHost he
    · exact (measureLoop_sameHost p _).of_sameHost (SameHost.after he ⟨rfl, rfl, rfl, rfl, rfl, rfl⟩)

theorem stopDecision_sameHost (s : State) : SameHost (stopDecision s) s := by
  unfold stopDecision; split <;> exact (gotoState_sameHost _ _).trans ⟨rfl, rfl, rfl, rfl, rfl, rfl⟩

theorem terminateOrRepeat_sameHost (s : State) : SameHost (terminateOrRepeat s) s := by
  unfold terminateOrRepeat; split
  · exact gotoState_sameHost _ _
  · split
    · exact gotoState_sameHost _ _
    · split
      · split
        · exact raiseError_sameHost _ _ _
        · exact gotoState_sameHost _ _
      · exact (gotoState_sameHost _ _).trans ⟨rfl, rfl, rfl, rfl, rfl, rfl⟩

theorem checkReadBack_sameHost (s : State) : SameHost (checkReadBack s) s := by
  unfold checkReadBack; split
  · exact raiseError_sameHost _ _ _
  · split
    · exact raiseError_sameHost _ _ _
    · exact gotoState_sameHost _ _

theorem setStep_sameHost (p : Point) (inp : StepInput) (s : State) : Advance.All (SameHost · s) (setStep p inp s) := by
  unfold setStep; split
  · exact SameHost.refl s
  · refine awaitTxn_sameHost _ _ _ _ (fun d t h => ?_)
    show SameHost (startSettle p t) s
    unfold startSettle; split
    · exact (gotoState_sameHost _ _).trans (SameHost.after h ⟨rfl, rfl, rfl, rfl, rfl, rfl⟩)
    · exact SameHost.after h ⟨rfl, rfl, rfl, rfl, rfl, rfl⟩
  · show SameHost (settleStep p inp.tick s) s
    unfold settleStep; simp only; split
    · exact (gotoState_sameHost _ _).trans (countTick_sameHost _ s)
    · exact countTick_sameHost _ s
  · trivial

theorem measStep_sameHost (b : BuildParams) (p : Point) (inp : StepInput) (s : State) :
    Advance.All (SameHost · s) (measStep b p inp s) := by
  unfold measStep; split
  · exact (measureLoop_sameHost p _).of_sameHost ⟨rfl, rfl, rfl, rfl, rfl, rfl⟩
  · exact pulsePhase_sameHost _ _ s
  · exact measureRead_sameHost b p _ s
  · trivial

/-- The sequencer's step changes none of the fields `SameHost` names, wherever it stands. -/
theorem advance_sameHost (b : BuildParams) (inp : StepInput) (s : State) : Advance.All (SameHost · s) (advance b inp s) := by
  unfold advance; split
  · exact SameHost.refl s
  · exact pulsePhase_sameHost _ _ s
  · exact acquireRead_sameHost _ s
  · exact pulsePhase_sameHost _ _ s
  · exact sampleRead_sameHost b _ s
  · unfold calStep; split
    · unfold readCalStep; split
      · exact SameHost.refl s
      · exact awaitTxn_sameHost _ _ _ _ (fun d t h => SameHost.after h ⟨rfl, rfl, rfl, rfl, rfl, rfl⟩)
      · exact awaitTxn_sameHost _ _ _ _ (fun d t h => SameHost.after h ⟨rfl, rfl, rfl, rfl, rfl, rfl⟩)
      · exact awaitTxn_sameHost _ _ _ _ (fun d t h =>
          (checkReadBack_sameHost _).trans (SameHost.after h ⟨rfl, rfl, rfl, rfl, rfl, rfl⟩))
      · trivial
    · exact setStep_sameHost .low inp s
    · exact measStep_sameHost b .low inp s
    · exact setStep_sameHost .high inp s
    · exact measStep_sameHost b .high inp s
    · unfold computeStep; split
      · split
        · show SameHost (computeBody s) s
          unfold computeBody; split
          · exact raiseError_sameHost _ _ _
          · exact (stopDecision_sameHost _).trans ⟨rfl, rfl, rfl, rfl, rfl, rfl⟩
        · trivial
      · trivial
    · unfold writeCalStep; split
      · exact SameHost.refl s
      · exact awaitTxn_sameHost _ _ _ _ (fun d t h => SameHost.after h ⟨rfl, rfl, rfl, rfl, rfl, rfl⟩)
      · exact awaitTxn_sameHost _ _ _ _ (fun d t h =>
          (gotoState_sameHost _ _).trans (SameHost.after h ⟨rfl, rfl, rfl, rfl, rfl, rfl⟩))
      · trivial
    · unfold logRoundStep; split
      · exact SameHost.refl s
      · exact awaitTxn_sameHost _ _ _ _ (fun d t h => SameHost.after h ⟨rfl, rfl, rfl, rfl, rfl, rfl⟩)
      · show SameHost (if _ then _ else _) s
        split
        · exact (terminateOrRepeat_sameHost _).trans ⟨rfl, rfl, rfl, rfl, rfl, rfl⟩
        · exact SameHost.refl s
      · trivial
    all_goals trivial

end Sys2Proof.Laws
end

