-- ==== Sys2Proof/Laws/Window.lean ====
section
/-! SUPPORT. The register window: an offset names at most one register, and which one (spec/10_state.md rule R29, spec/20_memory.md rules R71-R73). -/

namespace Sys2Proof.Laws

open Sys2Proof.Machine

/-- The word an offset falls in, as the spec writes it: bits 1:0 cleared. -/
theorem wordOffset_eq (off : BitVec 12) : wordOffset off = (off &&& 0xFFC).toNat := by
  have bits : off &&& (0xFFC : BitVec 12) = (off >>> 2) <<< 2 := by
    apply BitVec.eq_of_getLsbD_eq
    intro i hi
    interval_cases i <;> simp [-BitVec.getLsbD_eq_getElem]
  rw [bits, BitVec.toNat_shiftLeft, BitVec.toNat_ushiftRight, Nat.shiftRight_eq_div_pow, Nat.shiftLeft_eq]
  have := off.isLt
  unfold wordOffset
  omega

/-- No two registers share an offset. -/
theorem regMap_offsets_nodup : (regMap.map Prod.fst).Nodup := by decide +kernel

/-- In a list of pairs with distinct keys, a lookup finds exactly the pairs that stand in it. -/
theorem find_key_iff {α : Type} : ∀ (l : List (Nat × α)), (l.map Prod.fst).Nodup → ∀ (k : Nat) (r : α),
    ((l.find? (fun e => e.1 == k)).map (·.2)) = some r ↔ (k, r) ∈ l
  | [], _, _, _ => by simp
  | (a, x) :: l, h, k, r => by
    simp only [List.map_cons, List.nodup_cons] at h
    have ih := find_key_iff l h.2 k r
    by_cases hk : a = k
    · subst hk
      rw [List.find?_cons_of_pos (by simp)]
      simp only [Option.map_some, Option.some.injEq, List.mem_cons, Prod.mk.injEq, true_and]
      refine ⟨fun e => .inl e.symm, fun e => e.elim (fun e => e.symm) (fun e => ?_)⟩
      exact absurd (List.mem_map_of_mem (f := Prod.fst) e) h.1
    · rw [List.find?_cons_of_neg (by simpa using hk), ih]
      simp only [List.mem_cons, Prod.mk.injEq]
      exact ⟨fun e => .inr e, fun e => e.elim (fun e => absurd e.1.symm hk) id⟩

/-- Which register an offset names. -/
theorem regAt_eq_some_iff (off : BitVec 12) (r : Reg) : regAt off = some r ↔ (wordOffset off, r) ∈ regMap :=
  find_key_iff regMap regMap_offsets_nodup _ _

/-- Which offsets are unmapped. -/
theorem regAt_eq_none_iff (off : BitVec 12) : regAt off = none ↔ ∀ e ∈ regMap, e.1 ≠ wordOffset off := by
  unfold regAt
  rw [Option.map_eq_none_iff, List.find?_eq_none]
  simp

/-- Bits 1:0 of an offset do not matter. -/
theorem regAt_and (off : BitVec 12) : regAt (off &&& 0xFFC) = regAt off := by
  unfold regAt
  rw [wordOffset_eq, wordOffset_eq, BitVec.and_assoc, BitVec.and_self]

/-- A read answers what the register reads as, and 0 where the window is unmapped. -/
theorem memRead_mapped {b : BuildParams} {s : State} {off : BitVec 12} {r : Reg} (h : regAt off = some r) :
    memRead b s off = readReg b s r := by
  unfold memRead; rw [h]

/-- An unmapped offset reads 0. -/
theorem memRead_unmapped {b : BuildParams} {s : State} {off : BitVec 12} (h : regAt off = none) :
    memRead b s off = 0 := by
  unfold memRead; rw [h]

end Sys2Proof.Laws
end

