-- ==== Sys2Proof/Laws/Words.lean ====
section
/-! SUPPORT. The bits of the packed registers, one lemma for each (spec/10_state.md rules R31, R32, R41, R46, R47; spec/41_frame_decoder.md rules R139-R141). -/

namespace Sys2Proof.Laws

open Sys2Proof.Machine

/-- A bit of two words written one after the other. -/
theorem getLsbD_cat {n m : Nat} (x : BitVec n) (y : BitVec m) (i : Nat) :
    (x ++ y).getLsbD i = if i < m then y.getLsbD i else x.getLsbD (i - m) := by
  rw [BitVec.getLsbD_append]

/-- The bits of `STATUS` (R31), from bit 0 up. -/
theorem statusWord_getLsbD (s : State) (i : Nat) : (statusWord s).getLsbD i =
    if i < 1 then (BitVec.ofBool s.busy).getLsbD i
    else if i - 1 < 1 then (BitVec.ofBool s.done).getLsbD (i - 1)
    else if i - 1 - 1 < 1 then (BitVec.ofBool s.err).getLsbD (i - 1 - 1)
    else if i - 1 - 1 - 1 < 1 then (BitVec.ofBool s.reject).getLsbD (i - 1 - 1 - 1)
    else if i - 1 - 1 - 1 - 1 < 1 then (BitVec.ofBool s.recValid).getLsbD (i - 1 - 1 - 1 - 1)
    else if i - 1 - 1 - 1 - 1 - 1 < 1 then (BitVec.ofBool s.readValid).getLsbD (i - 1 - 1 - 1 - 1 - 1)
    else if i - 1 - 1 - 1 - 1 - 1 - 1 < 1 then (BitVec.ofBool s.calState.running).getLsbD (i - 1 - 1 - 1 - 1 - 1 - 1)
    else if i - 1 - 1 - 1 - 1 - 1 - 1 - 1 < 1 then (BitVec.ofBool s.unmappedFlag).getLsbD (i - 1 - 1 - 1 - 1 - 1 - 1 - 1)
    else if i - 1 - 1 - 1 - 1 - 1 - 1 - 1 - 1 < 1 then
      (BitVec.ofBool s.rd.swinv).getLsbD (i - 1 - 1 - 1 - 1 - 1 - 1 - 1 - 1)
    else if i - 1 - 1 - 1 - 1 - 1 - 1 - 1 - 1 - 1 < 1 then
      (BitVec.ofBool s.txEn).getLsbD (i - 1 - 1 - 1 - 1 - 1 - 1 - 1 - 1 - 1)
    else if i - 1 - 1 - 1 - 1 - 1 - 1 - 1 - 1 - 1 - 1 < 2 then (0#2).getLsbD (i - 1 - 1 - 1 - 1 - 1 - 1 - 1 - 1 - 1 - 1)
    else if i - 1 - 1 - 1 - 1 - 1 - 1 - 1 - 1 - 1 - 1 - 2 < 4 then
      s.op.code.getLsbD (i - 1 - 1 - 1 - 1 - 1 - 1 - 1 - 1 - 1 - 1 - 2)
    else if i - 1 - 1 - 1 - 1 - 1 - 1 - 1 - 1 - 1 - 1 - 2 - 4 < 8 then
      s.errCode.code.getLsbD (i - 1 - 1 - 1 - 1 - 1 - 1 - 1 - 1 - 1 - 1 - 2 - 4)
    else if i - 1 - 1 - 1 - 1 - 1 - 1 - 1 - 1 - 1 - 1 - 2 - 4 - 8 < 6 then
      s.errIndex.getLsbD (i - 1 - 1 - 1 - 1 - 1 - 1 - 1 - 1 - 1 - 1 - 2 - 4 - 8)
    else (0#2).getLsbD (i - 1 - 1 - 1 - 1 - 1 - 1 - 1 - 1 - 1 - 1 - 2 - 4 - 8 - 6) := by
  unfold statusWord
  iterate 14 rw [getLsbD_cat]

/-- The bits of `CAL_STATUS` (R32), from bit 0 up. -/
theorem calStatusWord_getLsbD (s : State) (i : Nat) : (calStatusWord s).getLsbD i =
    if i < 4 then s.calState.code.getLsbD i
    else if i - 4 < 2 then s.stopReq.code.getLsbD (i - 4)
    else if i - 4 - 2 < 2 then (0#2).getLsbD (i - 4 - 2)
    else if i - 4 - 2 - 2 < 9 then s.batchRetry.getLsbD (i - 4 - 2 - 2)
    else (0#15).getLsbD (i - 4 - 2 - 2 - 9) := by
  unfold calStatusWord
  iterate 4 rw [getLsbD_cat]

/-- The bits of `RD_ATTR` (R47), from bit 0 up. -/
theorem rdAttrWord_getLsbD (r : Reading) (i : Nat) : (rdAttrWord r).getLsbD i =
    if i < 3 then r.scale.code.getLsbD i
    else if i - 3 < 1 then (0#1).getLsbD (i - 3)
    else if i - 3 - 1 < 4 then r.unit.getLsbD (i - 3 - 1)
    else if i - 3 - 1 - 4 < 2 then r.acdc.getLsbD (i - 3 - 1 - 4)
    else if i - 3 - 1 - 4 - 2 < 2 then (0#2).getLsbD (i - 3 - 1 - 4 - 2)
    else if i - 3 - 1 - 4 - 2 - 2 < 3 then r.modifier.code.getLsbD (i - 3 - 1 - 4 - 2 - 2)
    else if i - 3 - 1 - 4 - 2 - 2 - 3 < 1 then (0#1).getLsbD (i - 3 - 1 - 4 - 2 - 2 - 3)
    else if i - 3 - 1 - 4 - 2 - 2 - 3 - 1 < 1 then (BitVec.ofBool r.neg).getLsbD (i - 3 - 1 - 4 - 2 - 2 - 3 - 1)
    else if i - 3 - 1 - 4 - 2 - 2 - 3 - 1 - 1 < 1 then (BitVec.ofBool r.swinv).getLsbD (i - 3 - 1 - 4 - 2 - 2 - 3 - 1 - 1)
    else (0#14).getLsbD (i - 3 - 1 - 4 - 2 - 2 - 3 - 1 - 1 - 1) := by
  unfold rdAttrWord
  iterate 9 rw [getLsbD_cat]

/-- The bits of `CAL_CTRL` (R41), from bit 0 up. -/
theorem calCtrlWord_getLsbD (c : Cfg) (i : Nat) : (calCtrlWord c).getLsbD i =
    if i < 1 then (BitVec.ofBool c.gainDamp).getLsbD i
    else if i - 1 < 1 then (BitVec.ofBool c.tolEn).getLsbD (i - 1)
    else if i - 1 - 1 < 6 then (0#6).getLsbD (i - 1 - 1)
    else if i - 1 - 1 - 6 < 8 then c.refChannel.getLsbD (i - 1 - 1 - 6)
    else (0#16).getLsbD (i - 1 - 1 - 6 - 8) := by
  unfold calCtrlWord
  iterate 4 rw [getLsbD_cat]

/-- The bits of `DS_FLAGS` (R139), from bit 0 up. -/
theorem dsFlagsWord_getLsbD (r : Record) (i : Nat) : (dsFlagsWord r).getLsbD i =
    if i < 8 then r[1].getLsbD i
    else if i - 8 < 1 then (BitVec.ofBool (flagAuto r)).getLsbD (i - 8)
    else if i - 8 - 1 < 1 then (BitVec.ofBool (flagHold r)).getLsbD (i - 8 - 1)
    else if i - 8 - 1 - 1 < 1 then (BitVec.ofBool (flagDc r)).getLsbD (i - 8 - 1 - 1)
    else if i - 8 - 1 - 1 - 1 < 1 then (BitVec.ofBool (flagAc r)).getLsbD (i - 8 - 1 - 1 - 1)
    else if i - 8 - 1 - 1 - 1 - 1 < 1 then (BitVec.ofBool (flagNano r)).getLsbD (i - 8 - 1 - 1 - 1 - 1)
    else if i - 8 - 1 - 1 - 1 - 1 - 1 < 1 then (BitVec.ofBool (flagBeep r)).getLsbD (i - 8 - 1 - 1 - 1 - 1 - 1)
    else if i - 8 - 1 - 1 - 1 - 1 - 1 - 1 < 1 then (BitVec.ofBool (flagMin r)).getLsbD (i - 8 - 1 - 1 - 1 - 1 - 1 - 1)
    else if i - 8 - 1 - 1 - 1 - 1 - 1 - 1 - 1 < 1 then
      (BitVec.ofBool (flagMax r)).getLsbD (i - 8 - 1 - 1 - 1 - 1 - 1 - 1 - 1)
    else if i - 8 - 1 - 1 - 1 - 1 - 1 - 1 - 1 - 1 < 1 then
      (BitVec.ofBool (flagPeakToPeak r)).getLsbD (i - 8 - 1 - 1 - 1 - 1 - 1 - 1 - 1 - 1)
    else if i - 8 - 1 - 1 - 1 - 1 - 1 - 1 - 1 - 1 - 1 < 1 then
      (BitVec.ofBool (flagDelta r)).getLsbD (i - 8 - 1 - 1 - 1 - 1 - 1 - 1 - 1 - 1 - 1)
    else if i - 8 - 1 - 1 - 1 - 1 - 1 - 1 - 1 - 1 - 1 - 1 < 1 then
      (BitVec.ofBool (flagPercent r)).getLsbD (i - 8 - 1 - 1 - 1 - 1 - 1 - 1 - 1 - 1 - 1 - 1)
    else (0#13).getLsbD (i - 8 - 1 - 1 - 1 - 1 - 1 - 1 - 1 - 1 - 1 - 1 - 1) := by
  unfold dsFlagsWord
  iterate 12 rw [getLsbD_cat]

/-- The bits of the diagnostic register `RD_UNMAPPED`'s value and the bargraph words: bit i is `f i` below n, and 0 above. -/
theorem bitsWord_getLsbD (f : Nat → Bool) : ∀ n, n ≤ 32 → ∀ i, (bitsWord f n).getLsbD i = (decide (i < n) && f i)
  | 0, _, i => by simp [bitsWord, -BitVec.getLsbD_eq_getElem]
  | n + 1, h, i => by
    have one : (1#32 <<< n).getLsbD i = decide (i = n) := by
      rw [← BitVec.twoPow_eq, BitVec.getLsbD_twoPow]
      by_cases e : i = n
      · subst e; simp; omega
      · simp [e, Ne.symm e]
    unfold bitsWord
    rw [BitVec.getLsbD_or, bitsWord_getLsbD f n (by omega)]
    by_cases e : i = n
    · subst e
      cases hf : f i <;> simp [one, -BitVec.getLsbD_eq_getElem]
    · have lt : (i < n + 1) ↔ (i < n) := by omega
      cases hf : f n <;> simp [one, e, lt, -BitVec.getLsbD_eq_getElem]

/-- A field of n bits as read is the written word under the field's mask (R74). -/
theorem zext_setWidth (v : Word) (n : Nat) : zext (v.setWidth n) = v &&& (BitVec.allOnes n).setWidth 32 := by
  apply BitVec.eq_of_getLsbD_eq
  intro i hi
  unfold zext
  by_cases h : i < n <;> simp [h, hi, -BitVec.getLsbD_eq_getElem]

end Sys2Proof.Laws
end

