-- ==== Sys2Proof/Tests/Slice0.lean ====
section
/-! SUPPORT. Small tests: ill-formed terms the checks refuse, words written out from spec/30_encoding.md, single steps, vectors of spec/95_test_vectors.md, and a witness for the hypotheses of each statement. -/

namespace Sys2Proof.Tests

open Sys2Proof.Machine

/-! ### Well-formedness: each check refuses an ill-formed term -/

theorem test_wf_identify_arg : (Instr.supIdentify 1).wellFormed = false := by decide
theorem test_wf_readOffset_arg : (Instr.supReadOffset 0x80000000).wellFormed = false := by decide
theorem test_wf_readGain_arg : (Instr.supReadGain 1).wellFormed = false := by decide
theorem test_wf_readTemp_arg : (Instr.supReadTemp 0xFFFFFFFF).wellFormed = false := by decide
theorem test_wf_setOutput_arg : (Instr.supSetOutput 0xFFFFFFFF).wellFormed = true := by decide

/-- R5: a codebook with a repeated pattern is refused, and so is one with the pattern 0. -/
theorem test_wf_codebook_repeated :
    ({ BuildParams.example95 with segCodebook := BuildParams.example95.segCodebook.set 3 0x3F } : BuildParams).valid = false := by
  decide

theorem test_wf_codebook_zero :
    ({ BuildParams.example95 with segCodebook := BuildParams.example95.segCodebook.set 3 0 } : BuildParams).valid = false := by
  decide

theorem test_wf_codebook_95 : BuildParams.example95.WellFormed := by decide

/-! ### Decoding: words written bit by bit from R92, R95, R96 and R114 -/

theorem test_decode_nop : decodeTableWord 32 0b00000000000000000000000000000000 = some .nop := by decide
theorem test_decode_acquire : decodeTableWord 32 0b00000000000000000000000000000001 = some .acquire := by decide
theorem test_decode_decode : decodeTableWord 32 0b00000000000000000000000000000010 = some .decode := by decide
theorem test_decode_map : decodeTableWord 32 0b00000000000000000000000000000011 = some .map := by decide
theorem test_decode_sample : decodeTableWord 32 0b00000000000000000000000000000100 = some .sample := by decide
theorem test_decode_calStart : decodeTableWord 32 0b00000000000000000000000000010000 = some .calStart := by decide
theorem test_decode_calStopKeep : decodeTableWord 32 0b00000000000000000000000000010001 = some .calStopKeep := by decide
theorem test_decode_calStopAdjust : decodeTableWord 32 0b00000000000000000000000000010010 = some .calStopAdjust := by decide
theorem test_decode_calAbort : decodeTableWord 32 0b00000000000000000000000000010011 = some .calAbort := by decide
theorem test_decode_clear : decodeTableWord 32 0b00000000000000000000000000011110 = some .clear := by decide
theorem test_decode_softReset : decodeTableWord 32 0b00000000000000000000000000011111 = some .softReset := by decide
theorem test_decode_symbol_first : decodeTableWord 8 0b01000011 = some (.symbol 0b0000) := by decide
theorem test_decode_symbol_last : decodeTableWord 8 0b01111111 = some (.symbol 0b1111) := by decide
theorem test_decode_symbol_order : decodeTableWord 8 0b01100111 = some (.symbol 0b1001) := by decide
theorem test_decode_supIdentify : decodeTableWord 8 0b0001 = some (.supIdentify 0) := by decide
theorem test_decode_supReadOffset : decodeTableWord 8 0b0010 = some (.supReadOffset 0) := by decide
theorem test_decode_supReadGain : decodeTableWord 8 0b0011 = some (.supReadGain 0) := by decide
theorem test_decode_supSetOutput : decodeTableWord 8 0b0100 = some (.supSetOutput 0) := by decide
theorem test_decode_supWriteOffset : decodeTableWord 8 0b0101 = some (.supWriteOffset 0) := by decide
theorem test_decode_supWriteGain : decodeTableWord 8 0b0110 = some (.supWriteGain 0) := by decide
theorem test_decode_supReadTemp : decodeTableWord 8 0b0111 = some (.supReadTemp 0) := by decide

/-- R93: a reserved bit, and the unassigned opcodes next to assigned ones. -/
theorem test_decode_refused :
    decode (.command 0x00000100) = .error .reservedBits ∧ decode (.command 0x80000001) = .error .reservedBits ∧
    decode (.command 0x00000005) = .error .unassignedOpcode ∧ decode (.command 0x0000000F) = .error .unassignedOpcode ∧
    decode (.command 0x00000014) = .error .unassignedOpcode ∧ decode (.command 0x0000001D) = .error .unassignedOpcode ∧
    decode (.command 0x00000020) = .error .unassignedOpcode := by decide

/-- R95: a start marker that is not 01, a stop marker that is not 11; R114: ops 0 and 8. -/
theorem test_decode_refused_ports :
    decode (.transport 0x03) = .error .badStartMarker ∧ decode (.transport 0xC3) = .error .badStartMarker ∧
    decode (.transport 0x42) = .error .badStopMarker ∧ decode (.supply 0 0) = .error .supplyOpNeverEmitted ∧
    decode (.supply 8 0) = .error .supplyOpNeverEmitted ∧ decode (.supply 7 1) = .error .supplyArgNotZero := by decide

/-! ### States for single steps -/

/-- The state a result is, or none. -/
def result (r : Result) : Option State :=
  match r with
  | .next s => some s
  | .fault _ => none
  | .refused _ => none

/-- The first step after reset, running a word of the opcode table. -/
def first (nbits w : Nat) : Option State := result (step (State.reset.withFetchWord nbits w))

/-- A configuration that passes R190's checks: references 1 and 5 (spec/95_test_vectors.md E8), three samples. -/
def runCfg : Cfg := { Cfg.reset with refLowMant := 1, refHighMant := 5, nSamples := 3, setLowArg := 0x11, setHighArg := 0x22 }

/-- The session of a run whose supply holds gain 1000000 and offset 0. -/
def runSes : Session := { Session.init runCfg with gain := 1000000, newGain := 1000000 }

/-- A calibration waiting at an await point. -/
def atPoint (c : CalState) (w : Await) : State :=
  { State.reset with
    op := .cal, calState := c, substep := w, cfg := runCfg, ses := runSes
    txEn := w = .aPulse, supPending := w.isTxn, logValid := w = .lEmit }

/-- An ACQUIRE or a SAMPLE in its pulse or read phase. -/
def reading (o : Op) (w : Await) : State := { State.reset with op := o, substep := w, txEn := w = .aPulse }

/-- A step's input. -/
def host (off : BitVec 12) (v : Word) : StepInput := { StepInput.quiet with host := some (.write off v) }

/-- A frame of 35 symbols with nibble 0. -/
def zeros : Frame := Vector.replicate 35 0x43

/-- The part of the invariant that evaluates, for a state with no valid Reading. -/
def check (s : State) : Bool :=
  legalPoint s.op s.calState s.substep && decide (s.txEn = true ↔ s.substep = .aPulse) &&
  decide (s.supPending = s.substep.isTxn) && decide (s.logValid = true ↔ s.substep = .lEmit) &&
  decide (s.rxcnt.toNat ≤ 35) && decide (s.op ≠ .idle → s.done = false ∧ s.errCode = .none) &&
  decide (s.op = .cal → configCheck s.cfg = none) && decide (s.op = .cal → s.ses.settleMs ≠ 0) &&
  decide (s.batchRetry.toNat ≤ 256 ∧ (s.op = .cal → s.batchRetry.toNat ≤ s.cfg.maxBatchRetries.toNat)) &&
  decide (s.op = .cal → s.calState.constantsRead = true →
    s.cfg.offsetInBounds s.ses.offset = true ∧ s.cfg.gainInBounds s.ses.gain = true) &&
  decide (s.op = .cal → s.calState = .writeCal →
    s.cfg.offsetInBounds s.ses.newOffset = true ∧ s.cfg.gainInBounds s.ses.newGain = true) &&
  decide (s.op = .cal → s.substep = .aPulse ∨ s.substep = .aRead → s.sampleIdx < s.cfg.nSamples.toNat) &&
  decide (s.readValid = false) && decide (s.supReqValid = true → 1 ≤ s.supReqOp.toNat ∧ s.supReqOp.toNat ≤ 7) &&
  decide (s.sampleIdx ≤ Config.nMax ∧ s.sampleBuf.map Sample.arrival = List.range s.sampleIdx)

theorem check_inv {s : State} (h : check s = true) : BlockInv s := by
  simp only [check, Bool.and_eq_true, decide_eq_true_eq, and_assoc] at h
  obtain ⟨h1, h2, h3, h4, h5, h6, h7, h8, h9, h9', h10, h11, h12, h13, h14, h15, h15'⟩ := h
  exact ⟨h1, h2, h3, h4, h5, h6, h7, h8, ⟨h9, h9'⟩, h10, h11, h12, (fun e => by rw [h13] at e; cases e), h14, ⟨h15, h15'⟩⟩

/-! ### The first step after reset, word by word -/

theorem test_first_nop : (first 32 0x00).map (fun s => (s.done, s.op, s.reject)) = some (true, .idle, false) := by decide
theorem test_first_acquire : (first 32 0x01).map (fun s => (s.op, s.substep, s.txEn, s.done)) = some (.acqPulse, .aPulse, true, false) := by decide
/-- The frame after reset is all 0, so symbol 0 is invalid (D3). -/
theorem test_first_decode : (first 32 0x02).map (fun s => (s.errCode, s.errIndex, s.done)) = some (.framingError, 0, true) := by decide
/-- No Record after reset (spec/95_test_vectors.md section 3.2). -/
theorem test_first_map : (first 32 0x03).map (fun s => (s.errCode, s.errIndex, s.done)) = some (.noRecord, 0, true) := by decide
theorem test_first_sample : (first 32 0x04).map (fun s => (s.op, s.substep, s.txEn, s.done)) = some (.smpPulse, .aPulse, true, false) := by decide
/-- The references are equal after reset: check 2 (R190). -/
theorem test_first_calStart : (first 32 0x10).map (fun s => (s.errCode, s.errIndex, s.done, s.op)) = some (.configError, 2, true, .idle) := by decide
theorem test_first_calStopKeep : (first 32 0x11).map (fun s => (s.stopReq, s.done)) = some (.none, true) := by decide
theorem test_first_calStopAdjust : (first 32 0x12).map (fun s => (s.stopReq, s.done)) = some (.none, true) := by decide
theorem test_first_calAbort : (first 32 0x13).map (fun s => (s.stopReq, s.done)) = some (.none, true) := by decide
theorem test_first_clear : (first 32 0x1E).map (fun s => (s.done, s.calState)) = some (true, .idle) := by decide
theorem test_first_softReset : first 32 0x1F = some State.reset := by decide
theorem test_first_symbol : (first 8 0x6B).map (fun s => (s.rxcnt, s.rxbuf[0])) = some (1, 0x6B) := by decide
theorem test_first_supIdentify : (first 8 1).map (fun s => (s.supReqValid, s.supReqOp, s.substep)) = some (true, 1, .tIdent) := by decide
theorem test_first_supReadOffset : (first 8 2).map (fun s => (s.supReqValid, s.supReqOp, s.substep)) = some (true, 2, .tRoff) := by decide
theorem test_first_supReadGain : (first 8 3).map (fun s => (s.supReqValid, s.supReqOp, s.substep)) = some (true, 3, .tRgain) := by decide
theorem test_first_supSetOutput : (first 8 4).map (fun s => (s.supReqValid, s.supReqOp, s.substep)) = some (true, 4, .tSet) := by decide
theorem test_first_supWriteOffset : (first 8 5).map (fun s => (s.supReqValid, s.supReqOp, s.substep)) = some (true, 5, .tWoff) := by decide
theorem test_first_supWriteGain : (first 8 6).map (fun s => (s.supReqValid, s.supReqOp, s.substep)) = some (true, 6, .tWgain) := by decide
theorem test_first_supReadTemp : (first 8 7).map (fun s => (s.supReqValid, s.supReqOp, s.substep)) = some (true, 7, .tTemp) := by decide
/-- R114: op 0 is never emitted, so no such word runs. -/
theorem test_first_supply_zero : (first 8 0).map (fun s => s.supReqValid) = some false := by decide

/-! ### Vectors of spec/95_test_vectors.md -/

/-- D2: the frame 0x43, 0x7F, 0x7B, then 0x43, decodes to `REC[0]` = 1 and 0 elsewhere. -/
theorem test_vector_D2 :
    decodeCore ((zeros.set 1 0x7F).set 2 0x7B) = .ok ((Vector.replicate 17 0).set 0 0x01) := by decide +kernel

/-- D5: the lowest invalid index wins. -/
theorem test_vector_D5 : decodeCore ((zeros.set 9 0xFF).set 5 0x00) = .error 5 := by decide +kernel

/-- D7: 0x47 as symbol 1 gives `REC[0]` = 0xEF. -/
theorem test_vector_D7 : decodeCore (zeros.set 1 0x47) = .ok ((Vector.replicate 17 0).set 0 0xEF) := by decide +kernel

/-- E2: nibbles j mod 16 with sync nibble 0. -/
theorem test_vector_E2 : decodeCore (encodeNibbles 0 (fun j => BitVec.ofNat 4 j.val)) =
    .ok #v[0xFE, 0x23, 0x45, 0x67, 0x89, 0xAB, 0xCD, 0xEF, 0x01, 0x23, 0x45, 0x67, 0x89, 0xAB, 0xCD, 0xEF, 0x01] := by
  decide +kernel

/-- D11: bargraph segments 0, 6, 46, 47, 48 and 49, and beep (bit 13). -/
theorem test_vector_D11 :
    let r : Record := #v[0, 0, 0, 0, 0, 0, 0, 0, 0, 0x41, 0x01, 0, 0, 0, 0, 0xE0, 0x01]
    (dsBarLoWord r, dsBarHiWord r, (dsFlagsWord r).getLsbD 13) = (0x00000041, 0x0003C000, true) := by decide +kernel

/-- A vector of section 3.2: three bytes, six cells, two bytes; then MANT, EXP, `RD_ATTR`, `RD_UNMAPPED` and the length, with the test codebook. -/
def mapped (r : Record) : Nat × Int × Word × Nat × Nat :=
  let d := mapCore BuildParams.example95 r
  (d.mant.toNat, d.exp.toInt, rdAttrWord d, d.unmapped.toNat, d.textLen.toNat)

theorem test_vector_M2 : mapped #v[1, 0, 5, 0x06, 0x5B, 0x80, 0x4F, 0x66, 0, 0, 0, 0, 0, 0, 0, 0, 0]
    = (1234, -2, 0x00240, 0, 5) := by decide +kernel
theorem test_vector_M3 : mapped #v[1, 0, 0, 0x86, 0xED, 0, 0, 0, 0, 0, 0, 0, 0, 0, 0, 0, 0]
    = (15, -1, 0x10040, 0, 4) := by decide +kernel
theorem test_vector_M5 : mapped #v[1, 0, 0, 0x06, 0x01, 0x5B, 0, 0, 0, 0, 0, 0, 0, 0, 0, 0, 0]
    = (12, 0, 0x00040, 2, 2) := by decide +kernel
theorem test_vector_M8 : mapped #v[1, 0x80, 0x40, 0x06, 0, 0, 0, 0, 0, 0, 0, 0, 0, 0, 0, 0, 0]
    = (1, 6, 0x00045, 0, 1) := by decide +kernel
theorem test_vector_M12 : mapped #v[3, 1, 0, 0, 0, 0, 0, 0, 0, 0, 0, 0, 0, 0, 0, 0, 0]
    = (0, 0, 0x20090, 0, 0) := by decide +kernel
theorem test_vector_M14 : mapped #v[1, 0, 0, 0, 0, 0, 0, 0, 0, 0, 0, 0, 0, 0, 0, 4, 8]
    = (0, 0, 0x04040, 0, 0) := by decide +kernel
theorem test_vector_M21 : mapped #v[1, 4, 0, 0x6F, 0x6F, 0x6F, 0x6F, 0x6F, 0x6F, 0, 0, 0, 0, 0, 0, 0, 0]
    = (999999, -6, 0x00042, 0, 6) := by decide +kernel
theorem test_vector_M22 : mapped #v[1, 0, 0, 0x06, 0xDB, 0xCF, 0, 0, 0, 0, 0, 0, 0, 0, 0, 0, 0]
    = (12, -1, 0x00040, 0, 5) := by decide +kernel

/-- Section 3.5 and E8: `rnd` at its ties, `grow`, and the gains and ppm worked there. -/
theorem test_vector_arithmetic :
    (Ratio.rnd ⟨5, 2⟩, Ratio.rnd ⟨-5, 2⟩, Ratio.rnd ⟨4999, 10000⟩, grow 1, grow 100, ppmOf 1000000 999250)
      = (3, -3, 0, 2, 125, -750) := by decide +kernel

/-! ### Witnesses: states and operands that meet the hypotheses of each statement, clause by clause, at boundary values -/

/-- Every await point of every running state is held by a state of the invariant. -/
theorem atPoint_inv (c : CalState) (w : Await) (h : c.awaits.contains w = true) : BlockInv (atPoint c w) := by
  cases c <;> cases w <;> first | exact absurd h (by decide) | exact check_inv (by decide +kernel)

theorem reset_inv : BlockInv State.reset := check_inv (by decide)

theorem reading_inv : BlockInv (reading .acqPulse .aPulse) ∧ BlockInv (reading .acqRead .aRead) ∧
    BlockInv (reading .smpPulse .aPulse) ∧ BlockInv (reading .smpRead .aRead) :=
  ⟨check_inv (by decide), check_inv (by decide), check_inv (by decide), check_inv (by decide)⟩

theorem zeros_ok : ∀ i : Fin 35, symbolOk zeros[i] := by unfold symbolOk; decide +kernel

theorem test_witness_DecodeEncode : (Instr.supSetOutput 0xFFFFFF38).WellFormed ∧ (Instr.symbol 15).WellFormed := by decide

theorem test_witness_EncodeDecode : decode (.command 0x0000001F) = .ok .softReset ∧ decode (.transport 0x7F) = .ok (.symbol 15) ∧
    decode (.supply 7 0) = .ok (.supReadTemp 0) := by decide

theorem test_witness_CommandLegal : decode (.command 0x00000013) = .ok .calAbort ∧
    (0x00000013 : Word).extractLsb' 0 8 = (0x00000013 : Word).extractLsb' 0 8 := by decide

theorem test_witness_StepRunsDecoded :
    (∃ t, phaseP1 (host 3 0) { State.reset with inputs := [host 3 0] }.begin = .next t) ∧
    (let s := { State.reset with inputs := [host 3 0x1F] }
     s.input.rst = false ∧ receive s.input.rx s.begin = .next s.begin ∧ advance Config.build s.input s.begin = .next s.begin ∧
       s.input.host = some (.write 3 0x1F)) ∧
    (let s := { reading .acqRead .aRead with inputs := [{ StepInput.quiet with rx := some 0x43 }] }
     s.input.rst = false ∧ s.input.rx = some 0x43 ∧ decode (.transport 0x43) = .ok (.symbol 0) ∧
       ∃ t, exec (.symbol 0) s.begin = .next t) ∧
    (let s := atPoint .readCal .entry
     receive s.input.rx s.begin = .next s.begin ∧ advance Config.build s.input s.begin = .issue (.supIdentify 0) s.begin ∧
       ∃ t, exec (.supIdentify 0) s.begin = .next t) :=
  ⟨⟨_, rfl⟩, ⟨rfl, rfl, rfl, rfl⟩, ⟨rfl, rfl, rfl, ⟨_, rfl⟩⟩, rfl, rfl, ⟨_, rfl⟩⟩

/-- NopEffect, ClearEffect, AcquisitionStart, StopCommands and RejectedCommand: idle, busy with a command, and busy with a run; CLEAR's three terminal states. -/
theorem test_witness_idle_or_busy : State.reset.op = .idle ∧ (reading .acqPulse .aPulse).op ≠ .idle ∧
    (reading .acqPulse .aPulse).op ≠ .cal ∧ (atPoint .measLow .aRead).op = .cal ∧
    (∀ c ∈ [CalState.converged, .failed, .aborted], BlockInv { State.reset with calState := c }) :=
  ⟨rfl, by decide, by decide, rfl, fun c hc => by
    simp only [List.mem_cons, List.not_mem_nil, or_false] at hc
    rcases hc with rfl | rfl | rfl <;> exact check_inv (by decide)⟩

theorem test_witness_AcquisitionStart : (atPoint .measLow .entry).op = .cal ∧
    (atPoint .measLow .entry).sampleBuf.length < (atPoint .measLow .entry).cfg.nSamples.toNat ∧
    (let s := { atPoint .measHigh .aRead with sampleBuf := [⟨false, 1, 0, 0⟩, ⟨false, 1, 0, 1⟩] }
     s.op = .cal ∧ s.sampleBuf.length + 1 = s.cfg.nSamples.toNat) ∧
    (let s := { atPoint .measHigh .entry with sampleBuf := [⟨false, 1, 0, 0⟩], ses := { runSes with acqRun := 3 } }
     BlockInv s ∧ s.op = .cal ∧ s.calState = .measHigh ∧ s.substep = .entry) :=
  ⟨by decide, by decide, by decide, check_inv (by decide +kernel), rfl, rfl, rfl⟩

/-- DecodeEffect: a valid frame; a frame whose lowest invalid symbol is the first, and one where it is the last; busy. -/
theorem test_witness_DecodeEffect :
    (BlockInv { State.reset with frame := zeros } ∧ ∀ i : Fin 35, symbolOk zeros[i]) ∧
    (BlockInv State.reset ∧ ¬ symbolOk State.reset.frame[0]) ∧
    (BlockInv { State.reset with frame := zeros.set 34 0xC3 } ∧ ¬ symbolOk (zeros.set 34 0xC3)[34] ∧
      ∀ j : Fin 35, j < 34 → symbolOk (zeros.set 34 0xC3)[j]) ∧
    (reading .smpRead .aRead).op ≠ .idle :=
  ⟨⟨check_inv (by decide), zeros_ok⟩, ⟨reset_inv, by unfold symbolOk; decide⟩,
    ⟨check_inv (by decide), by unfold symbolOk; decide +kernel, by unfold symbolOk; decide +kernel⟩, by decide⟩

theorem test_witness_MapEffect : (BlockInv { State.reset with recValid := true } ∧ State.reset.op = .idle) ∧
    (BlockInv State.reset ∧ State.reset.recValid = false) :=
  ⟨⟨check_inv (by decide), rfl⟩, reset_inv, rfl⟩

/-- The references of a run differ as rationals. -/
theorem runCfg_refs (c : Cfg) (h : c.refLow = runCfg.refLow) (g : c.refHigh = runCfg.refHigh) : c.refLow.toRat ≠ c.refHigh.toRat := by
  intro e
  rw [← Dec.eqv_iff_toRat, h, g] at e
  exact absurd e (by decide)

/-- CalStartEffect: each of the six checks fails first in some idle state (K1-K7), and in one none fails. -/
theorem test_witness_CalStartEffect : BlockInv State.reset ∧
    ({ runCfg with nSamples := 2050 } : Cfg).startCheckFails 1 ∧ ({ runCfg with nSamples := 2051 } : Cfg).startCheckFails 1 ∧
    ({ runCfg with nSamples := 0 } : Cfg).startCheckFails 1 ∧ ¬ ({ runCfg with nSamples := 2049 } : Cfg).startCheckFails 1 ∧
    (Cfg.reset.startCheckFails 2 ∧ ¬ Cfg.reset.startCheckFails 1) ∧
    ({ runCfg with settleInitMs := 0 } : Cfg).startCheckFails 3 ∧ ({ runCfg with gainMin := 0 } : Cfg).startCheckFails 4 ∧
    ({ runCfg with gainMin := 10, gainMax := 9 } : Cfg).startCheckFails 5 ∧
    ({ runCfg with offsetMin := 1, offsetMax := 0 } : Cfg).startCheckFails 6 ∧ ∀ n : Nat, ¬ runCfg.startCheckFails n := by
  have equal : Cfg.reset.startCheckFails 2 := by simp only [Cfg.startCheckFails]; rfl
  refine ⟨reset_inv, ?_, ?_, ?_, ?_, ⟨equal, ?_⟩, ?_, ?_, ?_, ?_, fun n => ?_⟩
  iterate 9 (· simp only [Cfg.startCheckFails] <;> decide +kernel)
  match n with
  | 2 =>
    simp only [Cfg.startCheckFails]
    exact runCfg_refs runCfg rfl rfl
  | 0 => simp only [Cfg.startCheckFails]; decide +kernel
  | 1 => simp only [Cfg.startCheckFails]; decide +kernel
  | 3 => simp only [Cfg.startCheckFails]; decide +kernel
  | 4 => simp only [Cfg.startCheckFails]; decide +kernel
  | 5 => simp only [Cfg.startCheckFails]; decide +kernel
  | 6 => simp only [Cfg.startCheckFails]; decide +kernel
  | n + 7 => simp only [Cfg.startCheckFails]; decide +kernel

/-- ByteCapture: the last byte that is kept, a 36th, and a byte no acquisition waits for. -/
theorem test_witness_ByteCapture :
    ((34 : BitVec 6).toNat < 35 ∧ (reading .acqPulse .aPulse).substep = .aPulse ∧ (reading .acqRead .aRead).substep = .aRead) ∧
    35 ≤ (35 : BitVec 6).toNat ∧ ¬ (State.reset.substep = .aPulse ∨ State.reset.substep = .aRead) ∧
    symbolOf 0 = 0x43 := by decide

theorem test_witness_RejectedCommand : (reading .acqRead .aRead).op ≠ .idle ∧ (0x00000011 : Word) ≠ 0x0000001F ∧
    ((reading .acqRead .aRead).op ≠ .cal) ∧ (atPoint .compute .entry).op = .cal ∧
    (0x00000010 : Word) ≠ 0x00000011 ∧ (0x00000010 : Word) ≠ 0x00000012 ∧ (0x00000010 : Word) ≠ 0x00000013 := by decide

/-- IllegalCommand: the lowest and highest reserved bit, and unassigned opcodes next to assigned ones; idle and busy. -/
theorem test_witness_IllegalCommand : (0x00000100 : Word).extractLsb' 8 24 ≠ 0 ∧ (0x80000000 : Word).extractLsb' 8 24 ≠ 0 ∧
    (∀ b ∈ ([0x05, 0x0F, 0x14, 0x1D, 0x20, 0xFF] : List Byte),
      b ∉ ([0x00, 0x01, 0x02, 0x03, 0x04, 0x10, 0x11, 0x12, 0x13, 0x1E, 0x1F] : List Byte)) ∧
    (0x00000005 : Word).extractLsb' 0 8 = 0x05 ∧ BlockInv State.reset ∧ BlockInv (atPoint .setLow .wSettle) :=
  ⟨by decide, by decide, by decide +kernel, by decide, reset_inv, atPoint_inv _ _ (by decide)⟩

/-- RaiseEffect: the running states' ends, and the states just outside them. -/
theorem test_witness_RaiseEffect : (1 ≤ CalState.readCal.code.toNat ∧ CalState.logRound.code.toNat ≤ 8) ∧
    ¬ (1 ≤ CalState.idle.code.toNat) ∧ ¬ (CalState.converged.code.toNat ≤ 8) := by decide

theorem test_witness_GotoEffect : ({ atPoint .compute .entry with stopReq := .abort } : State).stopReq = .abort ∧
    (atPoint .logRound .lEmit).stopReq ≠ .abort ∧ CalState.setLow ≠ .converged := by decide

/-- PulsePhase: the tick that ends the pulse and the one before it, for each of the three operations. -/
theorem test_witness_PulsePhase :
    (∀ s ∈ [reading .acqPulse .aPulse, reading .smpPulse .aPulse, atPoint .measLow .aPulse, atPoint .measHigh .aPulse],
      s.cfg.pulseMs.toNat ≤ (({ s with tmr := 9 } : State).ticked true).toNat ∧
      (({ s with tmr := 9 } : State).ticked false).toNat < s.cfg.pulseMs.toNat) ∧
    (reading .acqPulse .aPulse).op = .acqPulse ∧ (reading .smpPulse .aPulse).op = .smpPulse ∧
    (atPoint .measHigh .aPulse).calState = .measHigh := by decide

/-- AcquireReadPhase and SampleReadPhase: the 35th byte, the tick of the timeout and the one before it. -/
theorem test_witness_read_phases :
    (∀ o ∈ [Op.acqRead, .smpRead], BlockInv { reading o .aRead with rxcnt := 35, rxbuf := zeros } ∧
      BlockInv { reading o .aRead with rxcnt := 35 } ∧ BlockInv { reading o .aRead with rxcnt := 34, tmr := 3264 }) ∧
    (∀ i : Fin 35, symbolOk zeros[i]) ∧ ¬ symbolOk (reading .smpRead .aRead).rxbuf[0] ∧
    3265 ≤ (({ State.reset with tmr := 3264 } : State).ticked true).toNat ∧
    (({ State.reset with tmr := 3264 } : State).ticked false).toNat < 3265 := by
  refine ⟨fun o ho => ?_, zeros_ok, by unfold symbolOk; decide, by decide, by decide⟩
  simp only [List.mem_cons, List.not_mem_nil, or_false] at ho
  rcases ho with rfl | rfl <;> exact ⟨check_inv (by decide), check_inv (by decide), check_inv (by decide)⟩

/-- CalibrationSample: a read phase that holds, a good sample before the last and one that is the last, and a timeout and an invalid symbol, at and past the cap on consecutive failures. -/
theorem test_witness_CalibrationSample :
    (∀ s ∈ [{ atPoint .measLow .aRead with rxcnt := 34, tmr := 3263 }, { atPoint .measHigh .aRead with tmr := 3264 },
        { atPoint .measLow .aRead with rxcnt := 35, rxbuf := zeros },
        { atPoint .measLow .aRead with
          rxcnt := 35, rxbuf := zeros, sampleBuf := [⟨false, 1, 0, 0⟩, ⟨false, 1, 0, 1⟩] },
        { atPoint .measHigh .aRead with rxcnt := 35, rxbuf := zeros.set 34 0xC3 }], BlockInv s ∧ s.op = .cal ∧ s.substep = .aRead) ∧
    (({ State.reset with tmr := 3263 } : State).ticked true).toNat < runCfg.timeoutMs.toNat ∧
    runCfg.timeoutMs.toNat ≤ (({ State.reset with tmr := 3264 } : State).ticked true).toNat ∧
    ((0 : Nat) + 1 < runCfg.nSamples.toNat ∧ 2 + 1 = runCfg.nSamples.toNat) ∧
    ¬ symbolOk (zeros.set 34 0xC3)[34] ∧
    ({ runSes with acqRun := 15 } : Session).acqFailed.acqRun.toNat ≤ runCfg.maxAcqFails.toNat ∧
    runCfg.maxAcqFails.toNat < ({ runSes with acqRun := 16 } : Session).acqFailed.acqRun.toNat := by
  refine ⟨fun s hs => ?_, by decide, by decide, by decide, by unfold symbolOk; decide +kernel, by decide, by decide⟩
  simp only [List.mem_cons, List.not_mem_nil, or_false] at hs
  rcases hs with rfl | rfl | rfl | rfl | rfl <;> exact ⟨check_inv (by decide +kernel), rfl, rfl⟩

/-- R199's count saturates: with the cap at 65535 a failed sample is always retried (log entry 15). -/
theorem test_acqFail_saturates : ({ runSes with acqRun := 65535 } : Session).acqFailed.acqRun.toNat ≤ (65535 : BitVec 16).toNat := by
  decide

/-- BatchDecision: a batch of spread 1 above the threshold 0, rejected at and past the cap, and one of spread 0 that is accepted. -/
theorem test_witness_BatchDecision :
    let a : Sample := ⟨false, 1, 0, 0⟩
    let b : Sample := ⟨false, 0, 0, 1⟩
    let c : Sample := ⟨false, 1, 0, 2⟩
    batchOf 3 [a, b, c] = some ⟨b, a, c⟩ ∧ runCfg.noiseThr.toRat < c.value.toRat - b.value.toRat ∧
    (15 + 1 ≤ runCfg.maxBatchRetries.toNat ∧ runCfg.maxBatchRetries.toNat < 16 + 1) ∧
    batchOf 1 [a] = some ⟨a, a, a⟩ ∧ a.value.toRat - a.value.toRat ≤ runCfg.noiseThr.toRat := by
  refine ⟨by decide, ?_, by decide, by decide, ?_⟩
  · have h : runCfg.noiseThr = ⟨0, 0⟩ := rfl
    have h1 : (⟨false, 1, 0, 2⟩ : Sample).value = ⟨1, 0⟩ := by decide
    have h2 : (⟨false, 0, 0, 1⟩ : Sample).value = ⟨0, 0⟩ := by decide
    rw [h, h1, h2]; norm_num [Dec.toRat]
  · have h : runCfg.noiseThr = ⟨0, 0⟩ := rfl
    rw [h]; norm_num [Dec.toRat]

theorem test_witness_MedianOfBatch : ([⟨false, 5, 0, 0⟩, ⟨true, 5, 0, 1⟩, ⟨false, 5, 0, 2⟩] : List Sample).length % 2 = 1 ∧
    ([⟨false, 5, 0, 0⟩, ⟨true, 5, 0, 1⟩, ⟨false, 5, 0, 2⟩] : List Sample).map Sample.arrival = List.range 3 := by decide

theorem test_witness_SettleGrowth : (1 : Word) ≠ 0 ∧ (BitVec.allOnes 32 : Word) ≠ 0 := by decide

theorem test_witness_RoundNearest : (⟨-5, -2⟩ : Ratio).den ≠ 0 ∧ |(⟨5, 2⟩ : Ratio).toRat - ((3 : Int) : ℚ)| = 1 / 2 := by
  refine ⟨by decide, ?_⟩
  norm_num [Ratio.toRat]

/-- The slope of a session whose high measurement is below its low one. -/
theorem negative_slope : slopeRat runCfg { runSes with mlowMant := 1 } < 0 := by
  have h1 : ({ runSes with mlowMant := 1 } : Session).mHigh = ⟨0, 0⟩ := rfl
  have h2 : ({ runSes with mlowMant := 1 } : Session).mLow = ⟨1, 0⟩ := rfl
  have h3 : runCfg.refHigh = ⟨5, 0⟩ := rfl
  have h4 : runCfg.refLow = ⟨1, 0⟩ := rfl
  unfold slopeRat
  rw [h1, h2, h3, h4]
  norm_num [Dec.toRat]

/-- The slope of a session whose high measurement is above its low one. -/
theorem positive_slope : 0 ≤ slopeRat runCfg { runSes with mhighMant := 4 } := by
  have h1 : ({ runSes with mhighMant := 4 } : Session).mHigh = ⟨4, 0⟩ := rfl
  have h2 : ({ runSes with mhighMant := 4 } : Session).mLow = ⟨0, 0⟩ := rfl
  have h3 : runCfg.refHigh = ⟨5, 0⟩ := rfl
  have h4 : runCfg.refLow = ⟨1, 0⟩ := rfl
  unfold slopeRat
  rw [h1, h2, h3, h4]
  norm_num [Dec.toRat]

/-- A slope of 0 has a damped gain of 0, and one of 1 gives the gain back. -/
theorem test_witness_DampedGain : ((1 : ℤ) ≤ 1 ∧ (⟨0, 1⟩ : Ratio).den ≠ 0 ∧ 0 ≤ (⟨0, 1⟩ : Ratio).toRat) ∧
    (let s := { atPoint .compute .entry with cfg := { runCfg with gainDamp := true }, ses := { runSes with mlowMant := 1 } }
     BlockInv s ∧ s.op = .cal ∧ s.calState = .compute ∧ s.cfg.gainDamp = true ∧ slopeRat s.cfg s.ses < 0) ∧
    (let s := { atPoint .compute .entry with cfg := { runCfg with gainDamp := true }, ses := { runSes with mhighMant := 4 } }
     BlockInv s ∧ s.op = .cal ∧ s.calState = .compute ∧ s.cfg.gainDamp = true ∧ 0 ≤ slopeRat s.cfg s.ses ∧
     computeCorrection s.cfg s.ses = .ok { newOffset := 1000000, newGain := 1000000, corr := -1000000, ppm := 0 }) := by
  refine ⟨⟨le_refl _, by decide, by norm_num [Ratio.toRat]⟩,
    ⟨check_inv (by decide +kernel), rfl, rfl, rfl, negative_slope⟩, check_inv (by decide +kernel), rfl, rfl, rfl, ?_, by decide +kernel⟩
  exact positive_slope

/-- CorrectionExact: each of the four outcomes of a defined correction, the bounds at their last passing value and one past it. -/
theorem test_witness_CorrectionExact : runCfg.refLow.toRat ≠ runCfg.refHigh.toRat ∧ (1 : ℤ) ≤ runSes.gain.toInt ∧
    (let x := { runSes with mlowMant := 1001, mlowExp := 0xFD, mhighMant := 4998, mhighExp := 0xFD }
     (computeCorrection { runCfg with gainDamp := true } { runSes with mlowMant := 1 } = .error 1) ∧
     (computeCorrection { runCfg with offsetMin := BitVec.ofInt 32 (-1749) } x = .error 2) ∧
     (computeCorrection { runCfg with offsetMin := BitVec.ofInt 32 (-1750), gainMin := 999251 } x = .error 3) ∧
     (computeCorrection { runCfg with offsetMin := BitVec.ofInt 32 (-1750), gainMin := 999250 } x =
       .ok { newOffset := -1750, newGain := 999250, corr := 1750, ppm := -750 })) :=
  ⟨runCfg_refs runCfg rfl rfl, by decide, by decide +kernel, by decide +kernel, by decide +kernel, by decide +kernel⟩

/-- ComputeStep: a diverging and a passing correction, with each stop request. -/
theorem test_witness_ComputeStep :
    (∀ r ∈ [StopReq.none, .keep, .adjust, .abort], BlockInv { atPoint .compute .entry with stopReq := r }) ∧
    computeCorrection runCfg runSes = .error 3 ∧
    computeCorrection runCfg { runSes with mhighMant := 4 } =
      .ok { newOffset := 1000000, newGain := 1000000, corr := -1000000, ppm := 0 } ∧
    BlockInv { atPoint .compute .entry with ses := { runSes with mhighMant := 4 } } := by
  refine ⟨fun r hr => ?_, by decide +kernel, by decide +kernel, check_inv (by decide +kernel)⟩
  simp only [List.mem_cons, List.not_mem_nil, or_false] at hr
  rcases hr with rfl | rfl | rfl | rfl <;> exact check_inv (by decide +kernel)

theorem test_witness_WorkedExample : -(2 ^ 31) + 1750 ≤ (0x800006D6 : Word).toInt ∧ -(2 ^ 31) + 1750 ≤ (0x7FFFFFFF : Word).toInt ∧
    (0x800006D5 : Word).toInt < -(2 ^ 31) + 1750 ∧ (0x80000000 : Word).toInt < -(2 ^ 31) + 1750 := by
  decide

/-- TransactionAwait, ReadCalibration, SetAndSettle, WriteCalibration and LogRowOffered: every await point with a response and without one, at the tick of the timeout and before it, and the settle wait's last tick. -/
theorem test_witness_awaits :
    (∀ e ∈ [(CalState.readCal, Await.tIdent), (.readCal, .tRoff), (.readCal, .tRgain), (.setLow, .tSet), (.setHigh, .tSet),
        (.writeCal, .tWoff), (.writeCal, .tWgain), (.logRound, .tTemp), (.readCal, .entry), (.setLow, .entry), (.setHigh, .entry),
        (.setLow, .wSettle), (.setHigh, .wSettle), (.writeCal, .entry), (.logRound, .entry), (.logRound, .lEmit)],
      BlockInv (atPoint e.1 e.2)) ∧
    runCfg.supTimeoutMs.toNat ≤ (({ State.reset with tmr := 999 } : State).ticked true).toNat ∧
    (({ State.reset with tmr := 999 } : State).ticked false).toNat < runCfg.supTimeoutMs.toNat ∧
    runSes.settleMs.toNat ≤ (({ State.reset with tmr := 99 } : State).ticked true).toNat ∧
    (({ State.reset with tmr := 99 } : State).ticked false).toNat < runSes.settleMs.toNat ∧
    ({ StepInput.quiet with rsp := some 42 } : StepInput).rsp = some 42 ∧ StepInput.quiet.rsp = none :=
  ⟨fun e he => atPoint_inv _ _ (by revert e; decide), by decide, by decide, by decide, by decide, rfl, rfl⟩

/-- ReadCalibration's checks: an offset one below its bound, a gain one below and at its bound. -/
theorem test_witness_ReadCalibration :
    BlockInv { atPoint .readCal .tRgain with cfg := { runCfg with offsetMin := 1 } } ∧
    (0 : Word).toInt < ((1 : Word)).toInt ∧ (0 : Word).toInt < runCfg.gainMin.toInt ∧ runCfg.gainMin.toInt ≤ (1 : Word).toInt ∧
    (1 : Word).toInt ≤ runCfg.gainMax.toInt :=
  ⟨check_inv (by decide +kernel), by decide, by decide, by decide, by decide⟩

/-- EndOfRound: the five ways a round ends. -/
theorem test_witness_EndOfRound :
    BlockInv { atPoint .logRound .lEmit with roundStop := true } ∧
    BlockInv { atPoint .logRound .lEmit with cfg := { runCfg with tolEn := true } } ∧
    BlockInv { atPoint .logRound .lEmit with cfg := { runCfg with tolEn := true, maxRounds := 1 }, ppmExact := 1 } ∧
    BlockInv { atPoint .logRound .lEmit with cfg := { runCfg with maxRounds := 1 } } ∧
    BlockInv (atPoint .logRound .lEmit) ∧
    (runCfg.tolEn = false ∧ |(0 : ℤ)| ≤ (runCfg.ppmTol.toNat : ℤ) ∧ ¬ |(1 : ℤ)| ≤ (runCfg.ppmTol.toNat : ℤ)) ∧
    ((1 : BitVec 16).toNat ≤ ((0 : BitVec 16) + 1).toNat ∧ runCfg.maxRounds = 0 ∧
      (grow runSes.settleMs).toNat ≤ runCfg.settleMaxMs.toNat) :=
  ⟨check_inv (by decide +kernel), check_inv (by decide +kernel), check_inv (by decide +kernel), check_inv (by decide +kernel),
    check_inv (by decide +kernel), by decide, by decide⟩

theorem test_witness_RecordRoundTrip : decodeCore zeros = .ok ((Vector.replicate 17 0).set 0 0xFF) ∧
    encodeRecord 3 (Vector.replicate 17 0) = encodeRecord 3 (Vector.replicate 17 0) := by decide +kernel

/-- ParseLongest: the front of "1.2.3" is "1.2", a numeral with its point. -/
theorem test_witness_ParseLongest : IsNumeral [.minus, .digit 1, .point, .digit 2] true [1] [2] true ∧ IsNumeral [] false [] [] false := by
  unfold IsNumeral; decide

/-- UnreadInputs: two Records that differ in an unread bit of `REC[2]` and in a bargraph byte. -/
theorem test_witness_UnreadInputs :
    let r : Record := (Vector.replicate 17 0).set 0 1
    let q : Record := (r.set 2 0xB3).set 10 0xFF
    r ≠ q ∧ ∀ i : Fin 17, r[i] &&& mapperMask[i] = q[i] &&& mapperMask[i] := by decide +kernel

theorem test_witness_UnitAndLabels :
    let r : Record := (Vector.replicate 17 0)
    ((r.set 1 1)[1].getLsbD 0 = true) ∧ (r[1].getLsbD 0 = false ∧ (r.set 15 0x10)[15].getLsbD 4 = true) ∧ r[15].getLsbD 4 = false := by
  decide

theorem test_witness_StatusBits : (0x007 : BitVec 12) &&& 0xFFC = 0x004 ∧ (0x008 : BitVec 12) &&& 0xFFC = 0x008 ∧
    (0x065 : BitVec 12) &&& 0xFFC = 0x064 ∧ (0x30B : BitVec 12) &&& 0xFFC = 0x308 := by decide

theorem test_witness_ConfigWrite : (∀ e ∈ cfgLayout, ((BitVec.ofNat 12 (e.offset + 3)) &&& 0xFFC).toNat = e.offset) ∧
    State.reset.op = .idle ∧ (reading .acqPulse .aPulse).op ≠ .idle := by decide

theorem test_witness_OtherWrites : ((0x18B : BitVec 12) &&& 0xFFC).toNat = 0x100 + 4 * (34 : Fin 35).val ∧
    ((0x005 : BitVec 12) &&& 0xFFC).toNat = 0x004 ∧ 8 ≤ (0x008 : BitVec 12).toNat ∧ (0x01F : BitVec 12).toNat < 0x20 ∧
    (0x0FF : BitVec 12).toNat < 0x100 ∧ 0x18C ≤ (0x18C : BitVec 12).toNat := by decide

theorem test_witness_HostAccess : ({ StepInput.quiet with host := some (.read 0xFFF) } : StepInput).host = some (.read 0xFFF) ∧
    0x444 ≤ (0x444 : BitVec 12).toNat ∧ (0x243 : BitVec 12).toNat < 0x244 ∧
    (∀ e ∈ readTable State.reset, ((BitVec.ofNat 12 (e.1 + 3)) &&& 0xFFC).toNat = e.1) ∧
    ((0x18B : BitVec 12) &&& 0xFFC).toNat = 0x100 + 4 * (34 : Fin 35).val ∧
    ((0x243 : BitVec 12) &&& 0xFFC).toNat = 0x200 + 4 * (16 : Fin 17).val ∧
    ((0x33F : BitVec 12) &&& 0xFFC).toNat = 0x310 + 4 * (11 : Fin 12).val := by decide

theorem test_witness_ResetSteps_hardware :
    (let s := { atPoint .setLow .wSettle with inputs := [{ StepInput.quiet with rst := true, host := some (.read 4) }] }
     s.input.rst = true ∧ s.input.host = some (.read 4)) ∧
    (let s := { State.reset with inputs := [{ StepInput.quiet with rst := true, host := some (.write 0x20 5) }] }
     s.input.rst = true ∧ s.input.host = some (.write 0x20 5)) := by decide

theorem test_witness_ResetSteps_soft :
    let s := { atPoint .setLow .wSettle with inputs := [host 3 0x1F] }
    BlockInv s ∧ s.input.rst = false ∧ s.input.host = some (.write 3 0x0000001F) :=
  ⟨check_inv (by decide +kernel), rfl, rfl⟩

theorem test_witness_IdleStep :
    let s := { State.reset with inputs := [{ StepInput.quiet with tick := true, rx := some 0x43, rsp := some 1, logReady := true }] }
    BlockInv s ∧ s.op = .idle ∧ s.input.rst = false ∧ s.input.host = none :=
  ⟨check_inv (by decide), rfl, rfl, rfl⟩

/-- StepKeepsInvariant and StepNeverStops: a step of the reset state, and one of a running calibration that issues a request. -/
theorem test_witness_steps : (BlockInv State.reset ∧ step State.reset = .next State.reset) ∧
    (BlockInv (atPoint .setHigh .entry) ∧ ∃ t, step (atPoint .setHigh .entry) = .next t) :=
  ⟨⟨reset_inv, rfl⟩, atPoint_inv _ _ (by decide), ⟨_, rfl⟩⟩

/-- CalibrationEdges: a step that leaves a state, with and without an abort pending. -/
theorem test_witness_CalibrationEdges :
    (let s := { atPoint .setLow .wSettle with ses := { runSes with settleMs := 1 }, inputs := [{ StepInput.quiet with tick := true }] }
     BlockInv s ∧ (result (step s)).map State.calState = some .measLow) ∧
    (let s := { atPoint .setLow .wSettle with
       stopReq := .abort, ses := { runSes with settleMs := 1 }, inputs := [{ StepInput.quiet with tick := true }] }
     BlockInv s ∧ (result (step s)).map State.calState = some .aborted) :=
  ⟨⟨check_inv (by decide +kernel), by decide +kernel⟩, check_inv (by decide +kernel), by decide +kernel⟩

/-- CountersNeverDecrease: the step that accepts a log row. -/
theorem test_witness_CountersNeverDecrease :
    let s := { atPoint .logRound .lEmit with inputs := [{ StepInput.quiet with logReady := true }] }
    BlockInv s ∧ s.op = .cal ∧ (result (phaseP1 s.input s.begin)).map State.logValid = some false :=
  ⟨check_inv (by decide +kernel), rfl, by decide +kernel⟩

theorem test_witness_EmittedRequests : (result (step (atPoint .setHigh .entry))).map State.supReqValid = some true := by decide +kernel

/-- ConfigFrozen: a reset and a write of `PULSE_MS` that change the configuration. -/
theorem test_witness_ConfigFrozen :
    (result (step { State.reset with inputs := [host 0x020 5] })).map (fun t => t.cfg.pulseMs) = some 5 ∧
    (result (step { State.reset with cfg := runCfg, inputs := [{ StepInput.quiet with rst := true }] })).map State.cfg = some Cfg.reset := by
  decide +kernel

/-- FramingLaw, CellWalk, DisplayViews, ReadingExact, ResetValues, ResetInvariant, SymbolCodes and DecodedWords have no hypothesis but a build's validity, which this build has. -/
theorem test_witness_build : BuildParams.example95.valid = true ∧ BuildParams.example95.digitFlagBit = .bit7 := by decide

end Sys2Proof.Tests
end

section
/-! ## The phases of a step (spec/00_scope.md rule R10)

How `step` is put together, said once: the later proofs go through these equations. -/

namespace Sys2Proof.Proofs

open Sys2Proof.Machine Sys2Proof.Laws

/-! ### The phases -/

/-- A step with `rst` = 1 is P0 alone (R21). -/
theorem step_of_rst {s : State} (h : s.input.rst = true) : step s = .next (phaseP0 s.input s.begin) :=
  if_pos h

/-- A step with `rst` = 0 is P1 and then P2 (R10). -/
theorem step_of_not_rst {s : State} (h : s.input.rst = false) :
    step s = andThen (phaseP1 s.input s.begin) (phaseP2 s.input) :=
  if_neg (by simp [h])

/-- P1 advances the sequencer on the state the received byte leaves (R288). -/
theorem phaseP1_of_receive {inp : StepInput} {s t : State} (h : receive inp.rx s = .next t) :
    phaseP1 inp s = runAdvance (advance Config.build inp t) := by
  rw [phaseP1, h, andThen_next]

/-- A step is P2 on the state P1 leaves. -/
theorem step_of_phaseP1 {s t : State} (h : s.input.rst = false) (hp : phaseP1 s.input s.begin = .next t) :
    step s = phaseP2 s.input t := by
  rw [step_of_not_rst h, hp, andThen_next]

/-- The whole step, once it is known what the received byte leaves. -/
theorem step_of_receive {s t : State} (h : s.input.rst = false) (hr : receive s.input.rx s.begin = .next t) :
    step s = andThen (runAdvance (advance Config.build s.input t)) (phaseP2 s.input) := by
  rw [step_of_not_rst h, phaseP1_of_receive hr]

/-- A byte that decodes runs as its instruction (R126). -/
theorem receive_decoded {b : Byte} {i : Instr} (s : State) (h : decode (.transport b) = .ok i) :
    receive (some b) s = exec i s := by
  simp only [receive, h]

/-- A command word that decodes runs as its instruction (R175). -/
theorem commandIssue_decoded {v : Word} {i : Instr} (s : State) (h : decode (.command v) = .ok i) :
    commandIssue v s = exec i s := by
  simp only [commandIssue, h]

/-- P2 of a step with a host write is that write (R72). -/
theorem phaseP2_write {inp : StepInput} {off : BitVec 12} {v : Word} (s : State) (h : inp.host = some (.write off v)) :
    phaseP2 inp s = memWrite off v s := by
  simp only [phaseP2, h]

/-- P2 of a step without a host access does nothing. -/
theorem phaseP2_none {inp : StepInput} (s : State) (h : inp.host = none) : phaseP2 inp s = .next s := by
  simp only [phaseP2, h]

/-- `CMD` stands at offsets 0 to 3: the low bits are ignored (R29, R72). -/
theorem regAt_cmd {off : BitVec 12} (h : off.toNat < 4) : regAt off = some .cmd := by
  have hw : wordOffset off = 0 := by unfold wordOffset; omega
  rw [regAt_eq_some_iff, hw]
  simp [regMap, regMapControl]

/-- A write at `CMD` issues the command (R175). -/
theorem memWrite_cmd {off : BitVec 12} (v : Word) (s : State) (h : off.toNat < 4) :
    memWrite off v s = commandIssue v s := by
  simp only [memWrite, regAt_cmd h]

/-! ### What the sequencer issues (R114) -/

/-- An instruction the supply port carries: its word there decodes to it again. -/
def IsSupplyRequest (i : Instr) : Prop :=
  ∃ op arg, encode i = .supply op arg ∧ decode (.supply op arg) = .ok i

theorem isSupplyRequest_identify : IsSupplyRequest (.supIdentify 0) := ⟨1, 0, rfl, rfl⟩

theorem isSupplyRequest_readOffset : IsSupplyRequest (.supReadOffset 0) := ⟨2, 0, rfl, rfl⟩

theorem isSupplyRequest_readGain : IsSupplyRequest (.supReadGain 0) := ⟨3, 0, rfl, rfl⟩

theorem isSupplyRequest_setOutput (arg : Word) : IsSupplyRequest (.supSetOutput arg) := ⟨4, arg, rfl, rfl⟩

theorem isSupplyRequest_writeOffset (arg : Word) : IsSupplyRequest (.supWriteOffset arg) := ⟨5, arg, rfl, rfl⟩

theorem isSupplyRequest_writeGain (arg : Word) : IsSupplyRequest (.supWriteGain arg) := ⟨6, arg, rfl, rfl⟩

theorem isSupplyRequest_readTemp : IsSupplyRequest (.supReadTemp 0) := ⟨7, 0, rfl, rfl⟩

/-- The request a step of the sequencer issues, if it issues one, is a supply request. -/
def IssuesSupply : Advance → Prop
  | .next _ => True
  | .issue i _ => IsSupplyRequest i
  | .stop _ => True

theorem awaitTxn_issuesSupply (op : BitVec 6) (inp : StepInput) {f : Word → State → Advance} (s : State)
    (hf : ∀ d t, IssuesSupply (f d t)) : IssuesSupply (awaitTxn op inp f s) := by
  unfold awaitTxn
  split
  · trivial
  · trivial
  · exact hf _ _

theorem measureLoop_issuesSupply (p : Point) (s : State) : IssuesSupply (measureLoop p s) := by
  unfold measureLoop finishBatch
  split
  · trivial
  · split
    · split <;> trivial
    · trivial

theorem sampleFailed_issuesSupply (p : Point) (s : State) : IssuesSupply (sampleFailed p s) := by
  unfold sampleFailed
  simp only
  split
  · trivial
  · exact measureLoop_issuesSupply p _

theorem measStep_issuesSupply (b : BuildParams) (p : Point) (inp : StepInput) (s : State) :
    IssuesSupply (measStep b p inp s) := by
  unfold measStep
  split
  · exact measureLoop_issuesSupply p _
  · trivial
  · unfold measureRead
    simp only
    split
    · trivial
    · exact sampleFailed_issuesSupply p _
    · split
      · exact sampleFailed_issuesSupply p _
      · exact measureLoop_issuesSupply p _
  · trivial

theorem readCalStep_issuesSupply (inp : StepInput) (s : State) : IssuesSupply (readCalStep inp s) := by
  unfold readCalStep
  split
  · exact isSupplyRequest_identify
  · exact awaitTxn_issuesSupply _ _ _ fun _ _ => isSupplyRequest_readOffset
  · exact awaitTxn_issuesSupply _ _ _ fun _ _ => isSupplyRequest_readGain
  · exact awaitTxn_issuesSupply _ _ _ fun _ _ => trivial
  · trivial

theorem setStep_issuesSupply (p : Point) (inp : StepInput) (s : State) : IssuesSupply (setStep p inp s) := by
  unfold setStep
  split
  · exact isSupplyRequest_setOutput _
  · exact awaitTxn_issuesSupply _ _ _ fun _ _ => trivial
  · trivial
  · trivial

theorem computeStep_issuesSupply (s : State) : IssuesSupply (computeStep s) := by
  unfold computeStep
  split
  · split <;> trivial
  · trivial

theorem writeCalStep_issuesSupply (inp : StepInput) (s : State) : IssuesSupply (writeCalStep inp s) := by
  unfold writeCalStep
  split
  · exact isSupplyRequest_writeOffset _
  · exact awaitTxn_issuesSupply _ _ _ fun _ t => isSupplyRequest_writeGain t.ses.newGain
  · exact awaitTxn_issuesSupply _ _ _ fun _ _ => trivial
  · trivial

theorem logRoundStep_issuesSupply (inp : StepInput) (s : State) : IssuesSupply (logRoundStep inp s) := by
  unfold logRoundStep
  split
  · exact isSupplyRequest_readTemp
  · exact awaitTxn_issuesSupply _ _ _ fun _ _ => trivial
  · trivial
  · trivial

/-- Whatever the sequencer issues is a well-formed supply request, in every state. -/
theorem advance_issuesSupply (b : BuildParams) (inp : StepInput) (s : State) : IssuesSupply (advance b inp s) := by
  unfold advance
  split
  case h_6 =>
    unfold calStep
    split
    · exact readCalStep_issuesSupply inp s
    · exact setStep_issuesSupply .low inp s
    · exact measStep_issuesSupply b .low inp s
    · exact setStep_issuesSupply .high inp s
    · exact measStep_issuesSupply b .high inp s
    · exact computeStep_issuesSupply s
    · exact writeCalStep_issuesSupply inp s
    · exact logRoundStep_issuesSupply inp s
    all_goals trivial
  all_goals trivial

/-- A request issued by the sequencer's step is a supply request. -/
theorem isSupplyRequest_of_issue {b : BuildParams} {inp : StepInput} {s u : State} {i : Instr}
    (h : advance b inp s = .issue i u) : IsSupplyRequest i := by
  have hs := advance_issuesSupply b inp s
  rw [h] at hs
  exact hs

/-- Settles O6: the six clauses, each from the equations of the phases. -/
theorem stepRunsDecoded : Obligations.StepRunsDecoded := by
  refine ⟨fun _ => rfl, fun s t u hrst hrx => ⟨fun ha => ?_, fun i ha => ?_⟩,
    fun inp s => ⟨phaseP2_none s, fun off v hw => ⟨phaseP2_write s hw, fun hoff => ?_⟩⟩,
    fun s t off v i hrst hoff hw hd hp => ?_, fun s t b i hrst hb hd he => ?_, fun s t u i hrst hrx ha => ⟨?_, ?_⟩⟩
  · have hp : phaseP1 s.input s.begin = .next u := by rw [phaseP1_of_receive hrx, ha]; rfl
    exact ⟨hp, step_of_phaseP1 hrst hp⟩
  · have hp : phaseP1 s.input s.begin = exec i u := by rw [phaseP1_of_receive hrx, ha]; rfl
    exact ⟨hp, fun w hw => step_of_phaseP1 hrst (hp.trans hw)⟩
  · rw [phaseP2_write s hw, memWrite_cmd v s hoff]
  · rw [step_of_phaseP1 hrst hp, phaseP2_write t hw, memWrite_cmd v t hoff, commandIssue_decoded t hd]
  · refine step_of_receive hrst ?_
    rw [hb, receive_decoded _ hd, he]
  · exact isSupplyRequest_of_issue ha
  · rw [step_of_receive hrst hrx, ha]; rfl

/-- Settles O16: each of the seven arms of `exec` is `emitRequest` with its op and await point. -/
theorem supplyRequests : Obligations.SupplyRequests := by
  intro s arg e he
  simp only [List.mem_cons, List.not_mem_nil, or_false] at he
  rcases he with rfl | rfl | rfl | rfl | rfl | rfl | rfl <;> exact ⟨rfl, rfl⟩

end Sys2Proof.Proofs
end

section
/-! ## Every step keeps the invariant

Built from what Laws/Invariant.lean says of each phase's operations. -/

namespace Sys2Proof.Proofs

open Sys2Proof.Machine Sys2Proof.Laws

/-- P0 leaves the reset state but for the bus's word and the inputs to come (R268). -/
theorem blockInv_phaseP0 (inp : StepInput) (s : State) : BlockInv (phaseP0 inp s) :=
  blockInv_hostRdata (blockInv_reset s.inputs) _

/-- Running what the sequencer's step came to leaves the state `AdvanceInv` speaks of. -/
theorem blockInv_runAdvance {a : Advance} {t : State} (h : AdvanceInv a) (ht : runAdvance a = .next t) : BlockInv t := by
  cases a with
  | next u => cases ht; exact h
  | issue i u =>
    obtain ⟨w, hw, hinv⟩ := h
    cases hw.symm.trans ht
    exact hinv
  | stop f => exact h.elim

/-- P1 keeps the invariant: the received byte first, then the sequencer. -/
theorem blockInv_phaseP1 {inp : StepInput} {s t : State} (h : BlockInv s) (ht : phaseP1 inp s = .next t) : BlockInv t := by
  obtain ⟨u, hu, hadv⟩ := andThen_eq_next ht
  exact blockInv_runAdvance (advanceInv_advance (blockInv_receive h _ hu) inp) hadv

/-- Settles O55, phase by phase. -/
theorem stepKeepsInvariant : Obligations.StepKeepsInvariant := by
  intro s t h ht
  cases hrst : s.input.rst with
  | true =>
    rw [step_of_rst hrst] at ht
    cases ht
    exact blockInv_phaseP0 _ _
  | false =>
    rw [step_of_not_rst hrst] at ht
    obtain ⟨u, hu, hP2⟩ := andThen_eq_next ht
    exact blockInv_phaseP2 (blockInv_phaseP1 (blockInv_begin h) hu) _ hP2

end Sys2Proof.Proofs
end

section
/-! ## The nearest integer (spec/00_scope.md rule R8) -/

namespace Sys2Proof.Proofs

open Sys2Proof.Machine

/-- The integer quotient that `Ratio.rnd` computes is the floor of the magnitude plus one half. -/
theorem roundedMagnitude_eq_floor (q : Ratio) (h : q.den ≠ 0) :
    (((2 * q.num.natAbs + q.den.natAbs) / (2 * q.den.natAbs) : ℕ) : ℤ) = ⌊|q.toRat| + 1 / 2⌋ := by
  have hden : (q.den.natAbs : ℚ) ≠ 0 := by simpa using h
  have hsum : |q.toRat| + 1 / 2 = ((2 * q.num.natAbs + q.den.natAbs : ℕ) : ℚ) / ((2 * q.den.natAbs : ℕ) : ℚ) := by
    rw [q.abs_toRat]
    push_cast
    field_simp
  rw [hsum, Rat.floor_natCast_div_natCast, Int.natCast_ediv]

/-- `rnd` of a number that is not negative. -/
theorem rndRat_of_nonneg {x : ℚ} (h : 0 ≤ x) : rndRat x = ⌊|x| + 1 / 2⌋ := by
  rw [rndRat, if_pos h, abs_of_nonneg h]

/-- `rnd` is odd: of a number that is not positive it is minus the rounded magnitude. -/
theorem rndRat_of_nonpos {x : ℚ} (h : x ≤ 0) : rndRat x = -⌊|x| + 1 / 2⌋ := by
  rcases h.eq_or_lt with rfl | hneg
  · norm_num [rndRat]
  · rw [rndRat, if_neg hneg.not_ge, abs_of_neg hneg, ← Int.ceil_neg]
    congr 1
    ring

/-- `Ratio.rnd` is `rnd` of the rational the pair stands for: its sign test is the quotient's sign. -/
theorem rnd_eq_rndRat (q : Ratio) (h : q.den ≠ 0) : q.rnd = rndRat q.toRat := by
  unfold Ratio.rnd
  simp only [roundedMagnitude_eq_floor q h, decide_eq_decide]
  split
  next hsign =>
    refine (rndRat_of_nonneg (div_nonneg_iff.mpr ?_)).symm
    simp only [Int.cast_nonneg_iff, Int.cast_nonpos]
    omega
  next hsign =>
    refine (rndRat_of_nonpos (div_nonpos_iff.mpr ?_)).symm
    simp only [Int.cast_nonneg_iff, Int.cast_nonpos]
    omega

/-- The distance of `rnd x` from x is that of the rounded magnitude from the magnitude, and so is its own magnitude. -/
theorem rndRat_abs (x : ℚ) :
    |x - (rndRat x : ℚ)| = |(|x| - (⌊|x| + 1 / 2⌋ : ℚ))| ∧ |(rndRat x : ℚ)| = (⌊|x| + 1 / 2⌋ : ℚ) := by
  have hfloor : (0 : ℚ) ≤ (⌊|x| + 1 / 2⌋ : ℚ) := by
    exact_mod_cast Int.floor_nonneg.mpr (by positivity)
  rcases le_total 0 x with h | h
  · rw [rndRat_of_nonneg h]
    exact ⟨by rw [abs_of_nonneg h], abs_of_nonneg hfloor⟩
  · rw [rndRat_of_nonpos h]
    push_cast
    refine ⟨?_, by rw [abs_neg, abs_of_nonneg hfloor]⟩
    rw [← abs_neg, abs_of_nonpos h]
    congr 1
    ring

/-- `rnd x` is within one half of x. -/
theorem abs_sub_rndRat_le (x : ℚ) : |x - (rndRat x : ℚ)| ≤ 1 / 2 := by
  rw [(rndRat_abs x).1, abs_le]
  constructor <;> linarith [Int.floor_le (|x| + 1 / 2), Int.lt_floor_add_one (|x| + 1 / 2)]

/-- At a tie `rnd x` is the neighbour of larger magnitude. -/
theorem abs_lt_abs_rndRat_of_tie {x : ℚ} (h : |x - (rndRat x : ℚ)| = 1 / 2) : |x| < |(rndRat x : ℚ)| := by
  rw [(rndRat_abs x).1] at h
  rw [(rndRat_abs x).2]
  rcases (abs_eq (by norm_num)).mp h with hbelow | habove
  · linarith [Int.lt_floor_add_one (|x| + 1 / 2)]
  · linarith

/-- Settles O28: the bounds are proved of `rndRat`, which `Ratio.rnd` computes. -/
theorem roundNearest : Obligations.RoundNearest := by
  intro q hden
  rw [rnd_eq_rndRat q hden]
  exact ⟨rfl, abs_sub_rndRat_le _, abs_lt_abs_rndRat_of_tie⟩

end Sys2Proof.Proofs
end

section
/-! ## The supply transactions and the points around them (spec/00_scope.md rule R13, spec/44_calibration.md) -/

namespace Sys2Proof.Proofs

open Sys2Proof.Machine Sys2Proof.Laws

/-! ### Where a running calibration stands -/

/-- A running calibration stands at one of its state's await points (R193). -/
theorem awaits_of_cal {s : State} (h : BlockInv s) (hop : s.op = .cal) : s.substep ∈ s.calState.awaits := by
  have hp := h.point
  rw [hop] at hp
  simpa [legalPoint] using hp

/-- Only the running states have await points (R27, R193). -/
theorem running_of_mem_awaits {c : CalState} {w : Await} (h : w ∈ c.awaits) : c.running = true := by
  cases c with
  | idle | converged | failed | aborted => cases h
  | _ => rfl

/-- `OP` = CAL only while a run is on (R27). -/
theorem running_of_cal {s : State} (h : BlockInv s) (hop : s.op = .cal) : s.calState.running = true :=
  running_of_mem_awaits (awaits_of_cal h hop)

/-- The three reads from the supply are READ_CAL's (R194). -/
theorem readCal_of_mem_awaits {c : CalState} {w : Await} (hw : w ∈ [Await.tIdent, .tRoff, .tRgain]) (h : w ∈ c.awaits) :
    c = .readCal := by
  cases c with
  | readCal => rfl
  | _ =>
    simp only [List.mem_cons, List.not_mem_nil, or_false] at hw
    rcases hw with rfl | rfl | rfl <;> simp [CalState.awaits] at h

/-- The set-point's transaction is a SET state's (R195, R197). -/
theorem set_of_mem_awaits {c : CalState} (h : Await.tSet ∈ c.awaits) : ∃ p : Point, c = p.setState := by
  cases c with
  | setLow => exact ⟨.low, rfl⟩
  | setHigh => exact ⟨.high, rfl⟩
  | _ => simp [CalState.awaits] at h

/-- The two writes to the supply are WRITE_CAL's (R216). -/
theorem writeCal_of_mem_awaits {c : CalState} {w : Await} (hw : w ∈ [Await.tWoff, .tWgain]) (h : w ∈ c.awaits) :
    c = .writeCal := by
  cases c with
  | writeCal => rfl
  | _ =>
    simp only [List.mem_cons, List.not_mem_nil, or_false] at hw
    rcases hw with rfl | rfl <;> simp [CalState.awaits] at h

/-- The temperature's transaction is LOG_ROUND's (R217). -/
theorem logRound_of_mem_awaits {c : CalState} (h : Await.tTemp ∈ c.awaits) : c = .logRound := by
  cases c with
  | logRound => rfl
  | _ => simp [CalState.awaits] at h

/-- With `OP` = CAL the sequencer runs the calibration's step (R26). -/
theorem advance_cal {b : BuildParams} {inp : StepInput} {s : State} (hop : s.op = .cal) :
    advance b inp s = calStep b inp s := by
  simp only [advance, hop]

/-- The step of a point's SET state (R195, R197). -/
theorem calStep_set {b : BuildParams} {inp : StepInput} {s : State} {p : Point} (hc : s.calState = p.setState) :
    calStep b inp s = setStep p inp s := by
  cases p <;> simp only [calStep, hc, Point.setState]

/-- The step of a point's MEAS state (R196, R198). -/
theorem calStep_meas {b : BuildParams} {inp : StepInput} {s : State} {p : Point} (hc : s.calState = p.measState) :
    calStep b inp s = measStep b p inp s := by
  cases p <;> simp only [calStep, hc, Point.measState]

/-- The step of LOG_ROUND (R217). -/
theorem calStep_logRound {b : BuildParams} {inp : StepInput} {s : State} (hc : s.calState = .logRound) :
    calStep b inp s = logRoundStep inp s := by
  simp only [calStep, hc]

/-! ### The transaction's await -/

/-- The seven await points of a transaction, each with the code of its request (R114, R193). -/
def txnPoints : List (Await × BitVec 6) :=
  [(.tIdent, 1), (.tRoff, 2), (.tRgain, 3), (.tSet, 4), (.tWoff, 5), (.tWgain, 6), (.tTemp, 7)]

/-- At each of the seven points one request is outstanding (R13). -/
theorem supPending_of_txnPoint {s : State} (h : BlockInv s) {e : Await × BitVec 6} (he : e ∈ txnPoints)
    (hs : s.substep = e.1) : s.supPending = true := by
  have hall : ∀ e ∈ txnPoints, e.1.isTxn = true := by decide
  rw [h.pending, hs, hall e he]

/-- A transaction's response is taken, whatever the tick and the timer are. -/
theorem awaitTxn_response {op : BitVec 6} {inp : StepInput} {f : Word → State → Advance} {s : State} {d : Word}
    (hp : s.supPending = true) (hd : inp.rsp = some d) :
    awaitTxn op inp f s = f d { s with supPending := false } := by
  rw [awaitTxn, hd, txnStep_response _ _ hp]

/-- No response and the timer at its limit: the request's code is reported. -/
theorem awaitTxn_timeout {op : BitVec 6} {inp : StepInput} {f : Word → State → Advance} {s : State}
    (hr : s.calState.running = true) (hd : inp.rsp = none)
    (ht : s.cfg.supTimeoutMs.toNat ≤ (s.ticked inp.tick).toNat) :
    awaitTxn op inp f s = .next (State.failedWith { s with tmr := s.ticked inp.tick } .calSupplyTimeout op) := by
  rw [awaitTxn, hd, txnStep_timeout _ ht]
  exact advance_congr (raiseError_running _ _ hr)

/-- No response and time left: the tick is counted and nothing else changes. -/
theorem awaitTxn_hold {op : BitVec 6} {inp : StepInput} {f : Word → State → Advance} {s : State} (hd : inp.rsp = none)
    (ht : (s.ticked inp.tick).toNat < s.cfg.supTimeoutMs.toNat) :
    awaitTxn op inp f s = .next { s with tmr := s.ticked inp.tick } := by
  rw [awaitTxn, hd, txnStep_hold _ ht]

/-- The settle wait of a run begins with a hold, since its settle time is not 0 (R12, R195). -/
theorem startSettle_hold {p : Point} {s : State} (h : s.ses.settleMs ≠ 0) :
    startSettle p s = { s with tmr := 0, substep := .wSettle } :=
  if_neg h

/-- At each of the seven points the step awaits that point's transaction, and goes on with its response as `afterResponse` says. -/
theorem advance_txnPoint {b : BuildParams} {s : State} {inp : StepInput} (h : BlockInv s) (hop : s.op = .cal)
    {e : Await × BitVec 6} (he : e ∈ txnPoints) (hs : s.substep = e.1) :
    ∃ f, advance b inp s = awaitTxn e.2 inp f s ∧
      ∀ d, f d { s with supPending := false } = afterResponse e.1 d { s with supPending := false } := by
  have hw := awaits_of_cal h hop
  rw [hs] at hw
  rw [advance_cal hop]
  simp only [txnPoints, List.mem_cons, List.not_mem_nil, or_false] at he
  rcases he with rfl | rfl | rfl | rfl | rfl | rfl | rfl
  iterate 3
    · have hc := readCal_of_mem_awaits (by decide) hw
      exact ⟨_, by simp only [calStep, hc, readCalStep, hs]; rfl, fun _ => rfl⟩
  · obtain ⟨p, hc⟩ := set_of_mem_awaits hw
    refine ⟨fun _ t => .next (startSettle p t), ?_, fun d => advance_congr (startSettle_hold (h.settle hop))⟩
    simp only [calStep_set hc, setStep, hs]
  iterate 2
    · have hc := writeCal_of_mem_awaits (by decide) hw
      exact ⟨_, by simp only [calStep, hc, writeCalStep, hs]; rfl, fun _ => rfl⟩
  · have hc := logRound_of_mem_awaits hw
    exact ⟨_, by simp only [calStep_logRound hc, logRoundStep, hs]; rfl, fun _ => rfl⟩

/-- The response at a transaction's point is taken, and what follows it follows in the same step. -/
theorem advance_response {b : BuildParams} {s : State} {inp : StepInput} {d : Word} (h : BlockInv s) (hop : s.op = .cal)
    {e : Await × BitVec 6} (he : e ∈ txnPoints) (hs : s.substep = e.1) (hd : inp.rsp = some d) :
    advance b inp s = afterResponse e.1 d { s with supPending := false } := by
  obtain ⟨f, hadv, hf⟩ := advance_txnPoint (b := b) (inp := inp) h hop he hs
  rw [hadv, awaitTxn_response (supPending_of_txnPoint h he hs) hd, hf]

/-- Settles O33: the three ends of `awaitTxn`, at the seven points of `txnPoints`. -/
theorem transactionAwait : Obligations.TransactionAwait := by
  intro b s inp h e he hop hs
  obtain ⟨f, hadv, -⟩ := advance_txnPoint (b := b) (inp := inp) h hop he hs
  refine ⟨fun hd ht => ?_, fun hd ht => ?_, fun d hd => advance_response h hop he hs hd⟩
  · rw [hadv, awaitTxn_timeout (running_of_cal h hop) hd ht]
  · rw [hadv, awaitTxn_hold hd ht]

/-! ### SET_LOW and SET_HIGH -/

/-- The settle wait's step holds until its ticks are counted (R12). -/
theorem settleStep_hold {p : Point} {tick : Bool} {s : State} (h : (s.ticked tick).toNat < s.ses.settleMs.toNat) :
    settleStep p tick s = { s with tmr := s.ticked tick } := by
  simp only [settleStep, countTick_eq]
  exact if_neg (by omega)

/-- The settle wait ends in the measurement (R12, R195, R197). -/
theorem settleStep_end {p : Point} {tick : Bool} {s : State} (h : s.ses.settleMs.toNat ≤ (s.ticked tick).toNat) :
    settleStep p tick s = gotoState p.measState { s with tmr := s.ticked tick } := by
  simp only [settleStep, countTick_eq]
  exact if_pos h

/-- Settles O35: the three await points of a SET state. -/
theorem setAndSettle : Obligations.SetAndSettle := by
  intro b s inp p h hop hc
  have hadv : advance b inp s = setStep p inp s := by rw [advance_cal hop, calStep_set hc]
  refine ⟨fun hs => ?_, fun d hs hd => advance_response h hop (e := (.tSet, 4)) (by decide) hs hd,
    fun hs ht => ?_, fun hs ht => ?_⟩
  · simp only [hadv, setStep, hs]
    cases p <;> rfl
  · simp only [hadv, setStep, hs, settleStep_hold ht]
  · simp only [hadv, setStep, hs, settleStep_end ht]

/-! ### LOG_ROUND -/

/-- Settles O37: LOG_ROUND at its entry, at the temperature's response, and while the row is held. -/
theorem logRowOffered : Obligations.LogRowOffered := by
  intro b s inp h hop hc
  have hadv : advance b inp s = logRoundStep inp s := by rw [advance_cal hop, calStep_logRound hc]
  refine ⟨fun hs => ?_, fun d hs hd => advance_response h hop (e := (.tTemp, 7)) (by decide) hs hd, fun hs hready => ?_⟩
  · simp only [hadv, logRoundStep, hs]
  · simp only [hadv, logRoundStep, hs, hready, Bool.and_false, Bool.false_eq_true, if_false]

end Sys2Proof.Proofs
end

section
/-! ## The read phase of a calibration sample (spec/40_frame_reader.md rule R123, spec/44_calibration.md rule R199) -/

namespace Sys2Proof.Proofs

open Sys2Proof.Machine Sys2Proof.Laws

/-- At `A_READ` of a measuring state the step is the sample's read phase. -/
theorem advance_measRead {b : BuildParams} {inp : StepInput} {s : State} {p : Point} (hop : s.op = .cal)
    (hc : s.calState = p.measState) (hs : s.substep = .aRead) : advance b inp s = measureRead b p inp.tick s := by
  rw [advance_cal hop, calStep_meas hc]
  simp only [measStep, hs]

/-- Inside a run a sample starts with `OP` = CAL as it is. -/
theorem startAcq_cal {s : State} (hop : s.op = .cal) : startAcq .cal s = s.sampleStarted := by
  cases s; cases hop; rfl

/-- A batch that is not full starts its next sample (R199). -/
theorem measureLoop_more {p : Point} {s : State} (hop : s.op = .cal) (hn : s.sampleBuf.length < s.cfg.nSamples.toNat) :
    measureLoop p s = .next s.sampleStarted :=
  (if_pos hn).trans (advance_congr (startAcq_cal hop))

/-- A full batch ends (R199). -/
theorem measureLoop_full {p : Point} {s : State} (hn : s.sampleBuf.length = s.cfg.nSamples.toNat) :
    measureLoop p s = finishBatch p s :=
  if_neg (by rw [State.sampleIdx]; omega)

/-- Before the 35th byte and the timeout the read phase holds. -/
theorem measureRead_hold {b : BuildParams} {p : Point} {tick : Bool} {s : State} (hcnt : s.rxcnt ≠ 35)
    (ht : (s.ticked tick).toNat < s.cfg.timeoutMs.toNat) :
    measureRead b p tick s = .next { s with tmr := s.ticked tick } := by
  simp only [measureRead, countTick_eq]
  rw [readTest_hold (by exact hcnt) (by exact ht)]

/-- A sample that timed out has failed (R125, R199). -/
theorem measureRead_timeout {b : BuildParams} {p : Point} {tick : Bool} {s : State} (hcnt : s.rxcnt ≠ 35)
    (ht : s.cfg.timeoutMs.toNat ≤ (s.ticked tick).toNat) :
    measureRead b p tick s = sampleFailed p { s with tmr := s.ticked tick } := by
  simp only [measureRead, countTick_eq]
  rw [readTest_timeout (by exact hcnt) (by exact ht)]

/-- The state in which a complete frame is decoded: the tick is counted and the frame stored (R123, R124). -/
def frameStored (tick : Bool) (s : State) : State := State.takeFrame { s with tmr := s.ticked tick }

/-- A complete frame that decodes is mapped, and the sample appended (R177, R199). -/
theorem measureRead_good {b : BuildParams} {p : Point} {tick : Bool} {s : State} {r : Record} (hcnt : s.rxcnt = 35)
    (hr : decodeCore s.rxbuf = .ok r) :
    measureRead b p tick s =
      measureLoop p (((frameStored tick s).storeRecord r).storeReading (mapCore b r)).pushSample := by
  simp only [measureRead, countTick_eq]
  rw [readTest_frame (by exact hcnt)]
  simp only [sampleEnd, State.takeFrame_frame, hr, frameStored]

/-- A complete frame that does not decode is stored, the Record and the Reading are dropped, and the sample has failed (R177, R199). -/
theorem measureRead_bad {b : BuildParams} {p : Point} {tick : Bool} {s : State} {i : Fin 35} (hcnt : s.rxcnt = 35)
    (hi : decodeCore s.rxbuf = .error i) :
    measureRead b p tick s = sampleFailed p (frameStored tick s).dropRecord := by
  simp only [measureRead, countTick_eq]
  rw [readTest_frame (by exact hcnt)]
  simp only [sampleEnd, State.takeFrame_frame, hi, frameStored]

/-- A failed sample of a run, its two outcomes (R199): retried within the cap, and the run failed past it. -/
theorem sampleFailed_of_run {p : Point} {s : State} (hop : s.op = .cal) (hr : s.calState.running = true)
    (hn : s.sampleBuf.length < s.cfg.nSamples.toNat) :
    (s.ses.acqFailed.acqRun.toNat ≤ s.cfg.maxAcqFails.toNat →
      sampleFailed p s = .next (State.sampleStarted { s with ses := s.ses.acqFailed })) ∧
    (s.cfg.maxAcqFails.toNat < s.ses.acqFailed.acqRun.toNat →
      sampleFailed p s = .next (State.failedWith { s with ses := s.ses.acqFailed } .calAcqFail 0)) :=
  ⟨fun hcap => (sampleFailed_retry p hcap hn).trans (advance_congr (startAcq_cal hop)),
    fun hcap => (sampleFailed_raise p hcap).trans (advance_congr (raiseError_running _ _ hr))⟩

/-- Settles O24: the four ends of the read phase. -/
theorem calibrationSample : Obligations.CalibrationSample := by
  intro b s inp p h hop hc hs
  have hn : s.sampleBuf.length < s.cfg.nSamples.toNat := h.batch hop (.inr hs)
  have hr := running_of_cal h hop
  rw [advance_measRead hop hc hs]
  refine ⟨measureRead_hold, fun hcnt hok => ?_, fun hcnt ht => ?_, fun hcnt hbad => ?_⟩
  · rw [measureRead_good hcnt (decodeCore_ok hok)]
    exact ⟨fun hmore => measureLoop_more hop (by simpa [frameStored] using hmore),
      fun hlast => measureLoop_full (by simpa [frameStored] using hlast)⟩
  · rw [measureRead_timeout hcnt ht]
    exact sampleFailed_of_run (s := { s with tmr := s.ticked inp.tick }) hop hr hn
  · obtain ⟨i, hi⟩ := decodeCore_error hbad
    rw [measureRead_bad hcnt hi]
    exact sampleFailed_of_run (s := (frameStored inp.tick s).dropRecord) hop hr hn

end Sys2Proof.Proofs
end

section
/-! ## The register window: what an offset names, and what it reads as (spec/10_state.md rule R29, spec/20_memory.md rules R71-R74) -/

namespace Sys2Proof.Proofs

open Sys2Proof.Machine Sys2Proof.Laws

/-! ### Offsets and registers -/

/-- An offset names the register the map has at its word. -/
theorem regAt_of_mem {off : BitVec 12} {k : Nat} {r : Reg} (hk : (off &&& 0xFFC).toNat = k) (hr : (k, r) ∈ regMap) :
    regAt off = some r := by
  rw [regAt_eq_some_iff, wordOffset_eq, hk]
  exact hr

/-- A configuration register's row of `cfgLayout`. -/
def cfgLayoutOf : CfgReg → CfgLayout
  | .pulseMs => ⟨0x020, 0xFFFF, false⟩
  | .timeoutMs => ⟨0x024, 0xFFFF, false⟩
  | .nSamples => ⟨0x028, 0xFFF, false⟩
  | .noiseThrMant => ⟨0x02C, 0xFFFFFFFF, false⟩
  | .noiseThrExp => ⟨0x030, 0xFF, true⟩
  | .settleInitMs => ⟨0x034, 0xFFFFFF, false⟩
  | .settleMaxMs => ⟨0x038, 0xFFFFFF, false⟩
  | .maxBatchRetries => ⟨0x03C, 0xFF, false⟩
  | .maxRounds => ⟨0x040, 0xFFFF, false⟩
  | .maxAcqFails => ⟨0x044, 0xFFFF, false⟩
  | .supTimeoutMs => ⟨0x048, 0xFFFF, false⟩
  | .refLowMant => ⟨0x04C, 0xFFFFFFFF, false⟩
  | .refLowExp => ⟨0x050, 0xFF, true⟩
  | .refHighMant => ⟨0x054, 0xFFFFFFFF, false⟩
  | .refHighExp => ⟨0x058, 0xFF, true⟩
  | .setLowArg => ⟨0x05C, 0xFFFFFFFF, false⟩
  | .setHighArg => ⟨0x060, 0xFFFFFFFF, false⟩
  | .calCtrl => ⟨0x064, 0xFF03, false⟩
  | .offsetMin => ⟨0x068, 0xFFFFFFFF, false⟩
  | .offsetMax => ⟨0x06C, 0xFFFFFFFF, false⟩
  | .gainMin => ⟨0x070, 0xFFFFFFFF, false⟩
  | .gainMax => ⟨0x074, 0xFFFFFFFF, false⟩
  | .ppmTol => ⟨0x078, 0xFFFFFFFF, false⟩
  | .offsetTol => ⟨0x07C, 0xFFFFFFFF, false⟩

/-- A session register's offset (R29, R49-R54). -/
def sesOffset : SesReg → Nat
  | .calOffset => 0x400
  | .calGain => 0x404
  | .calMlowMant => 0x408
  | .calMlowExp => 0x40C
  | .calMhighMant => 0x410
  | .calMhighExp => 0x414
  | .calSettleMs => 0x418
  | .calRetryCount => 0x41C
  | .calRound => 0x420
  | .calBoardId => 0x424
  | .calTemp => 0x428
  | .calPpm => 0x42C
  | .calOffCorr => 0x430
  | .calAcqFails => 0x434
  | .calAcqRun => 0x438
  | .calNewOffset => 0x43C
  | .calNewGain => 0x440

/-- A register's offset (R29). -/
def regOffset : Reg → Nat
  | .cmd => 0x000
  | .status => 0x004
  | .calStatus => 0x008
  | .rxCount => 0x00C
  | .timer => 0x010
  | .cfg r => (cfgLayoutOf r).offset
  | .frame i => 0x100 + 4 * i.val
  | .recByte i => 0x200 + 4 * i.val
  | .dsFlags => 0x280
  | .dsSwpos => 0x284
  | .dsCell k => 0x288 + 4 * k.val
  | .dsBarLo => 0x2A0
  | .dsBarHi => 0x2A4
  | .rdMant => 0x300
  | .rdExp => 0x304
  | .rdAttr => 0x308
  | .rdTextLen => 0x30C
  | .rdText j => 0x310 + 4 * j.val
  | .rdUnmapped => 0x340
  | .ses r => sesOffset r

/-- The map has every register at its offset. -/
theorem regOffset_of_mem {e : Nat × Reg} (he : e ∈ regMap) : regOffset e.2 = e.1 := by
  have hall : regMap.all (fun e => regOffset e.2 == e.1) = true := rfl
  exact beq_iff_eq.mp (List.all_eq_true.mp hall e he)

/-- The map gives a register one offset. -/
theorem regMap_offset_unique {j k : Nat} {r : Reg} (hj : (j, r) ∈ regMap) (hk : (k, r) ∈ regMap) : j = k :=
  (regOffset_of_mem hj).symm.trans (regOffset_of_mem hk)

/-- `FRAME[i]`'s place in the map (R44). -/
theorem frame_mem_regMap (i : Fin 35) : (0x100 + 4 * i.val, Reg.frame i) ∈ regMap :=
  List.mem_flatten.mpr ⟨regMapFrames, by simp, List.mem_ofFn.mpr ⟨i, rfl⟩⟩

/-- `REC[i]`'s place in the map (R45). -/
theorem recByte_mem_regMap (i : Fin 17) : (0x200 + 4 * i.val, Reg.recByte i) ∈ regMap :=
  List.mem_flatten.mpr ⟨regMapRecords, by simp, List.mem_ofFn.mpr ⟨i, rfl⟩⟩

/-- `RD_TEXT[j]`'s place in the map (R48). -/
theorem rdText_mem_regMap (j : Fin 12) : (0x310 + 4 * j.val, Reg.rdText j) ∈ regMap :=
  List.mem_flatten.mpr ⟨regMapTexts, by simp, List.mem_ofFn.mpr ⟨j, rfl⟩⟩

/-- Where the window is mapped: every register stands in one of these ranges (R86). -/
theorem regOffset_ranges {r : Reg} {k : Nat} (h : regOffset r = k) :
    k < 0x14 ∨ (0x20 ≤ k ∧ k < 0x80) ∨ (0x100 ≤ k ∧ k < 0x18C) ∨ (0x200 ≤ k ∧ k < 0x244) ∨
      (0x280 ≤ k ∧ k < 0x2A8) ∨ (0x300 ≤ k ∧ k < 0x344) ∨ (0x400 ≤ k ∧ k < 0x444) := by
  cases r with
  | cfg q =>
    subst h
    cases q <;> decide
  | ses q =>
    subst h
    cases q <;> decide
  | frame i =>
    have hk : 0x100 + 4 * i.val = k := h
    omega
  | recByte i =>
    have hk : 0x200 + 4 * i.val = k := h
    omega
  | dsCell i =>
    have hk : 0x288 + 4 * i.val = k := h
    omega
  | rdText i =>
    have hk : 0x310 + 4 * i.val = k := h
    omega
  | _ =>
    subst h
    decide

/-- An offset outside the mapped ranges names no register. -/
theorem regAt_eq_none {off : BitVec 12}
    (h : (0x14 ≤ off.toNat ∧ off.toNat < 0x20) ∨ (0x80 ≤ off.toNat ∧ off.toNat < 0x100) ∨
      (0x18C ≤ off.toNat ∧ off.toNat < 0x200) ∨ (0x244 ≤ off.toNat ∧ off.toNat < 0x280) ∨
      (0x2A8 ≤ off.toNat ∧ off.toNat < 0x300) ∨ (0x344 ≤ off.toNat ∧ off.toNat < 0x400) ∨ 0x444 ≤ off.toNat) :
    regAt off = none := by
  rw [regAt_eq_none_iff]
  intro e he heq
  have hrange := regOffset_ranges ((regOffset_of_mem he).trans heq)
  unfold wordOffset at hrange
  omega

/-! ### Reads -/

/-- Bits 1:0 of a read's offset are ignored (R71). -/
theorem memRead_and (b : BuildParams) (s : State) (off : BitVec 12) : memRead b s (off &&& 0xFFC) = memRead b s off := by
  unfold memRead
  rw [regAt_and]

/-- A read at a register's offset answers what the register reads as. -/
theorem memRead_of_mem {b : BuildParams} {s : State} {off : BitVec 12} {k : Nat} {r : Reg}
    (hk : (off &&& 0xFFC).toNat = k) (hr : (k, r) ∈ regMap) : memRead b s off = readReg b s r :=
  memRead_mapped (regAt_of_mem hk hr)

/-- The registers that hold one number: not the packed registers, the byte arrays or the views of the Record. -/
def holdsNumber : Reg → Bool
  | .cmd | .rxCount | .timer | .rdMant | .rdExp | .rdTextLen | .rdUnmapped | .ses _ => true
  | .cfg r => r ≠ .calCtrl
  | .status | .calStatus | .frame _ | .recByte _ | .dsFlags | .dsSwpos | .dsCell _ | .dsBarLo | .dsBarHi => false
  | .rdAttr | .rdText _ => false

/-- `readTable` is the map's registers of one number, each with what it reads as. -/
theorem readTable_eq (b : BuildParams) (s : State) :
    readTable s = (regMap.filter (fun e => holdsNumber e.2)).map (fun e => (e.1, readReg b s e.2)) := rfl

/-- What `readTable` lists at a read's word is what the read answers. -/
theorem memRead_readTable {b : BuildParams} {s : State} {off : BitVec 12} {e : Nat × Word} (he : e ∈ readTable s)
    (hk : (off &&& 0xFFC).toNat = e.1) : memRead b s off = e.2 := by
  rw [readTable_eq b, List.mem_map] at he
  obtain ⟨⟨k, r⟩, hmem, rfl⟩ := he
  exact memRead_of_mem hk (List.mem_of_mem_filter hmem)

/-- A read changes only the word the bus returns (R71). -/
theorem phaseP2_read {inp : StepInput} {off : BitVec 12} (s : State) (h : inp.host = some (.read off)) :
    phaseP2 inp s = .next { s with hostRdata := some (memRead Config.build s off) } := by
  simp only [phaseP2, h]

/-! ### Writes -/

/-- Bits 1:0 of a write's offset are ignored (R72). -/
theorem memWrite_and (off : BitVec 12) (v : Word) (s : State) : memWrite (off &&& 0xFFC) v s = memWrite off v s := by
  unfold memWrite
  rw [regAt_and]

/-- A word that is no command is R180's. -/
theorem commandIssue_illegal {v : Word} {e : DecodeError} (s : State) (h : decode (.command v) = .error e) :
    commandIssue v s = .next (illegalCommand s) := by
  simp only [commandIssue, h]

/-- Every command answers a next state: none faults and none is refused. -/
theorem commandIssue_next (v : Word) (s : State) : ∃ t, commandIssue v s = .next t := by
  cases hd : decode (.command v) with
  | error e => exact ⟨_, commandIssue_illegal s hd⟩
  | ok i =>
    rw [commandIssue_decoded s hd]
    rcases decode_command_cases hd with rfl | rfl | rfl | rfl | rfl | rfl | rfl | rfl | rfl | rfl | rfl <;>
      exact ⟨_, rfl⟩

/-- A write of a register other than `CMD` is `writeReg` (R72). -/
theorem memWrite_reg {off : BitVec 12} {r : Reg} (v : Word) (s : State) (h : regAt off = some r) (hr : r ≠ .cmd) :
    memWrite off v s = .next (writeReg r v s) := by
  unfold memWrite
  rw [h]
  cases r with
  | cmd => exact absurd rfl hr
  | _ => rfl

/-- A write of an unmapped offset is ignored (R72). -/
theorem memWrite_unmapped {off : BitVec 12} (v : Word) (s : State) (h : regAt off = none) :
    memWrite off v s = .next s := by
  simp only [memWrite, h]

/-- `CMD` stands at offsets 0 to 3 only. -/
theorem toNat_lt_of_regAt_cmd {off : BitVec 12} (h : regAt off = some .cmd) : off.toNat < 4 := by
  have hmem : (0, Reg.cmd) ∈ regMap := by simp [regMap, regMapControl]
  have hoff := regMap_offset_unique ((regAt_eq_some_iff off _).mp h) hmem
  unfold wordOffset at hoff
  omega

/-- What a host write can be (R72): a command issue, a write of another register, or none at an unmapped offset. -/
theorem memWrite_cases (off : BitVec 12) (v : Word) (s : State) :
    (off.toNat < 4 ∧ memWrite off v s = commandIssue v s) ∨
      (∃ r, regAt off = some r ∧ memWrite off v s = .next (writeReg r v s)) ∨ memWrite off v s = .next s := by
  cases h : regAt off with
  | none => exact .inr (.inr (memWrite_unmapped v s h))
  | some r =>
    by_cases hr : r = .cmd
    · subst hr
      have hoff := toNat_lt_of_regAt_cmd h
      exact .inl ⟨hoff, memWrite_cmd v s hoff⟩
    · exact .inr (.inl ⟨r, rfl, memWrite_reg v s h hr⟩)

/-- Every host write answers a next state. -/
theorem memWrite_next (off : BitVec 12) (v : Word) (s : State) : ∃ t, memWrite off v s = .next t := by
  rcases memWrite_cases off v s with ⟨-, h⟩ | ⟨r, -, h⟩ | h
  · rw [h]
    exact commandIssue_next v s
  · exact ⟨_, h⟩
  · exact ⟨_, h⟩

/-- Settles O50: each clause is the map's lookup at the offset's word. -/
theorem hostAccess : Obligations.HostAccess := by
  intro b s inp off v
  refine ⟨fun hr => ?_, (memRead_and b s off).symm, (memWrite_and off v s).symm, memWrite_next off v s,
    fun e he hk => memRead_readTable he hk, fun i hk => memRead_of_mem hk (frame_mem_regMap i),
    fun i hk => memRead_of_mem hk (recByte_mem_regMap i), fun j hk => memRead_of_mem hk (rdText_mem_regMap j), fun hu => memRead_unmapped (regAt_eq_none hu)⟩
  rw [phaseP2_read s hr, memRead_and]

/-! ### After reset -/

/-- The value `resetTable` gives an offset of the map, 0 where it gives none. -/
def resetValueAt (k : Nat) : Word := ((resetTable.find? (fun e => e.1 == k)).map Prod.snd).getD 0

/-- Every register reads after reset as the table says, for every build (R29, R265): the Record is 0, so both flag positions read the cells as 0. -/
theorem readReg_reset (b : BuildParams) (r : Reg) : readReg b State.reset r = resetValueAt (regOffset r) := by
  cases r with
  | cfg q => cases q <;> rfl
  | ses q => cases q <;> rfl
  | frame i =>
    have hall : ∀ i : Fin 35, zext State.reset.frame[i] = resetValueAt (regOffset (.frame i)) := by decide
    exact hall i
  | recByte i =>
    have hall : ∀ i : Fin 17, zext State.reset.record[i] = resetValueAt (regOffset (.recByte i)) := by decide
    exact hall i
  | rdText j =>
    have hall : ∀ j : Fin 12, zext State.reset.rd.text[j] = resetValueAt (regOffset (.rdText j)) := by decide
    exact hall j
  | dsCell k =>
    have hall : ∀ (f : DigitFlagBit) (k : Fin 6), dsCellWord f State.reset.record k = resetValueAt (regOffset (.dsCell k)) := by
      intro f
      cases f <;> decide
    exact hall _ k
  | _ => rfl

/-- The table's offsets are configuration registers'. -/
theorem exists_reg_of_resetTable : ∀ e ∈ resetTable, ∃ m ∈ regMapConfig, m.1 = e.1 := by decide

/-- The table gives an unmapped word no value. -/
theorem resetValueAt_unmapped {k : Nat} (h : ∀ e ∈ regMap, e.1 ≠ k) : resetValueAt k = 0 := by
  have hnone : resetTable.find? (fun e => e.1 == k) = none := by
    rw [List.find?_eq_none]
    intro e he hek
    obtain ⟨m, hm, hme⟩ := exists_reg_of_resetTable e he
    exact h m (List.mem_flatten.mpr ⟨regMapConfig, by simp, hm⟩) (hme.trans (by simpa using hek))
  show ((resetTable.find? (fun e => e.1 == k)).map Prod.snd).getD 0 = 0
  rw [hnone]
  rfl

/-- Settles O51: the reads through the map's lookup, the internal state by evaluation. -/
theorem resetValues : Obligations.ResetValues := by
  refine ⟨fun b off => ?_, rfl, rfl, rfl, rfl, rfl, rfl, rfl, rfl, rfl, rfl, rfl, rfl, rfl, rfl, rfl, rfl⟩
  rw [← wordOffset_eq]
  show _ = resetValueAt (wordOffset off)
  cases h : regAt off with
  | none => rw [memRead_unmapped h, resetValueAt_unmapped ((regAt_eq_none_iff off).mp h)]
  | some r => rw [memRead_mapped h, readReg_reset, regOffset_of_mem ((regAt_eq_some_iff off r).mp h)]

end Sys2Proof.Proofs
end

section
/-! ## The packed registers as read (spec/10_state.md rules R31, R32, R41, R47) -/

namespace Sys2Proof.Proofs

open Sys2Proof.Machine Sys2Proof.Laws

/-- Two fields are equal when every bit of one is the other's. -/
theorem extractLsb'_eq_of_bits {n m : Nat} {w : BitVec n} {k : Nat} {x : BitVec m}
    (h : ∀ i < m, w.getLsbD (k + i) = x.getLsbD i) : w.extractLsb' k m = x := by
  apply BitVec.eq_of_getLsbD_eq
  intro i hi
  rw [BitVec.getLsbD_extractLsb', h i hi]
  simp [hi]

/-- `ERR` is `ERR_CODE` ≠ 0: only the code of none is 0 (R31, R240). -/
theorem err_iff_code (s : State) : s.err = true ↔ s.errCode.code ≠ 0 := by
  unfold State.err
  cases s.errCode <;> decide

/-- The fields of `STATUS` (R31). -/
theorem statusWord_fields (s : State) :
    let w := statusWord s
    w.getLsbD 0 = s.busy ∧ w.getLsbD 1 = s.done ∧ w.getLsbD 2 = s.err ∧ w.getLsbD 3 = s.reject ∧
    w.getLsbD 4 = s.recValid ∧ w.getLsbD 5 = s.readValid ∧ w.getLsbD 6 = s.calState.running ∧
    w.getLsbD 7 = s.unmappedFlag ∧ w.getLsbD 8 = s.rd.swinv ∧ w.getLsbD 9 = s.txEn ∧ w.extractLsb' 10 2 = 0 ∧
    w.extractLsb' 12 4 = s.op.code ∧ w.extractLsb' 16 8 = s.errCode.code ∧ w.extractLsb' 24 6 = s.errIndex ∧
    w.extractLsb' 30 2 = 0 := by
  intro w
  refine ⟨?_, ?_, ?_, ?_, ?_, ?_, ?_, ?_, ?_, ?_, ?_, ?_, ?_, ?_, ?_⟩
  iterate 10 simp [w, statusWord_getLsbD, -BitVec.getLsbD_eq_getElem]
  all_goals
    refine extractLsb'_eq_of_bits fun i hi => ?_
    rw [statusWord_getLsbD]
    interval_cases i <;> rfl

/-- The fields of `CAL_STATUS` (R32). -/
theorem calStatusWord_fields (s : State) :
    let w := calStatusWord s
    w.extractLsb' 0 4 = s.calState.code ∧ w.extractLsb' 4 2 = s.stopReq.code ∧ w.extractLsb' 6 2 = 0 ∧
    w.extractLsb' 8 9 = s.batchRetry ∧ w.extractLsb' 17 15 = 0 := by
  refine ⟨?_, ?_, ?_, ?_, ?_⟩
  all_goals
    refine extractLsb'_eq_of_bits fun i hi => ?_
    rw [calStatusWord_getLsbD]
    interval_cases i <;> rfl

/-- The fields of `CAL_CTRL` (R41). -/
theorem calCtrlWord_fields (c : Cfg) :
    let w := calCtrlWord c
    w.getLsbD 0 = c.gainDamp ∧ w.getLsbD 1 = c.tolEn ∧ w.extractLsb' 2 6 = 0 ∧
    w.extractLsb' 8 8 = c.refChannel ∧ w.extractLsb' 16 16 = 0 := by
  intro w
  refine ⟨?_, ?_, ?_, ?_, ?_⟩
  iterate 2 simp [w, calCtrlWord_getLsbD, -BitVec.getLsbD_eq_getElem]
  all_goals
    refine extractLsb'_eq_of_bits fun i hi => ?_
    rw [calCtrlWord_getLsbD]
    interval_cases i <;> rfl

/-- The fields of `RD_ATTR` (R47). -/
theorem rdAttrWord_fields (r : Reading) :
    let w := rdAttrWord r
    w.extractLsb' 0 3 = r.scale.code ∧ w.getLsbD 3 = false ∧ w.extractLsb' 4 4 = r.unit ∧
    w.extractLsb' 8 2 = r.acdc ∧ w.extractLsb' 10 2 = 0 ∧ w.extractLsb' 12 3 = r.modifier.code ∧
    w.getLsbD 15 = false ∧ w.getLsbD 16 = r.neg ∧ w.getLsbD 17 = r.swinv ∧ w.extractLsb' 18 14 = 0 := by
  refine ⟨extractLsb'_eq_of_bits ?_, ?_, extractLsb'_eq_of_bits ?_, extractLsb'_eq_of_bits ?_, extractLsb'_eq_of_bits ?_,
    extractLsb'_eq_of_bits ?_, ?_, ?_, ?_, extractLsb'_eq_of_bits ?_⟩
  case refine_2 | refine_7 | refine_8 | refine_9 => simp [rdAttrWord_getLsbD, -BitVec.getLsbD_eq_getElem]
  all_goals
    intro i hi
    rw [rdAttrWord_getLsbD]
    interval_cases i <;> rfl

/-- Settles O46: the four words' fields at the registers' offsets, and the code tables by evaluation. -/
theorem statusBits : Obligations.StatusBits := by
  refine ⟨fun b s off hoff => ?_, fun b s off hoff => ?_, fun b s off hoff => ?_, fun b s off hoff => ?_, by decide⟩
  · rw [memRead_of_mem (r := .status) (congrArg BitVec.toNat hoff) (by decide)]
    obtain ⟨hbusy, hdone, herr, hrej, hrec, hread, hrun, hunm, hrest⟩ := statusWord_fields s
    refine ⟨?_, hdone, ?_, hrej, hrec, hread, ?_, ?_, hrest⟩
    · rw [readReg, hbusy]
      simp [State.busy]
    · rw [readReg, herr]
      exact err_iff_code s
    · rw [readReg, hrun]
      exact running_iff_code s.calState
    · rw [readReg, hunm]
      simp [State.unmappedFlag]
  · rw [memRead_of_mem (r := .calStatus) (congrArg BitVec.toNat hoff) (by decide)]
    exact calStatusWord_fields s
  · rw [memRead_of_mem (r := .cfg .calCtrl) (congrArg BitVec.toNat hoff) (by decide)]
    exact calCtrlWord_fields s.cfg
  · rw [memRead_of_mem (r := .rdAttr) (congrArg BitVec.toNat hoff) (by decide)]
    exact rdAttrWord_fields s.rd

end Sys2Proof.Proofs
end

section
/-! ## The configuration registers (spec/10_state.md rules R34-R43, spec/20_memory.md rules R74, R182) -/

namespace Sys2Proof.Proofs

open Sys2Proof.Machine Sys2Proof.Laws

/-- The map's configuration part, each register at its row's offset. -/
theorem cfgLayoutOf_mem_regMap (r : CfgReg) : ((cfgLayoutOf r).offset, Reg.cfg r) ∈ regMap := by
  refine List.mem_flatten.mpr ⟨regMapConfig, by simp, ?_⟩
  cases r <;> decide

/-- The configuration registers, in the order of the map. -/
def cfgRegs : List CfgReg :=
  [.pulseMs, .timeoutMs, .nSamples, .noiseThrMant, .noiseThrExp, .settleInitMs, .settleMaxMs, .maxBatchRetries, .maxRounds,
    .maxAcqFails, .supTimeoutMs, .refLowMant, .refLowExp, .refHighMant, .refHighExp, .setLowArg, .setHighArg, .calCtrl,
    .offsetMin, .offsetMax, .gainMin, .gainMax, .ppmTol, .offsetTol]

/-- The rows of `cfgLayout` are the registers' rows. -/
theorem cfgLayout_eq_map : cfgLayout = cfgRegs.map cfgLayoutOf := rfl

/-- Every row of `cfgLayout` is a register's. -/
theorem exists_cfgLayoutOf {e : CfgLayout} (h : e ∈ cfgLayout) : ∃ r, cfgLayoutOf r = e := by
  rw [cfgLayout_eq_map, List.mem_map] at h
  obtain ⟨r, -, hr⟩ := h
  exact ⟨r, hr⟩

/-- `CAL_CTRL` reads back the bits it stores, under its mask (R41, R74). -/
theorem calCtrlWord_stored (c : Cfg) (v : Word) : calCtrlWord (storeCfg c v .calCtrl) = v &&& 0xFF03 := by
  apply BitVec.eq_of_getLsbD_eq
  intro i hi
  rw [calCtrlWord_getLsbD]
  interval_cases i <;> simp [storeCfg, -BitVec.getLsbD_eq_getElem]

/-- A configuration register reads back its field of the written word, masked or sign-extended (R74, R182). -/
theorem readCfg_storeCfg (c : Cfg) (v : Word) (r : CfgReg) :
    readCfg (storeCfg c v r) r = (cfgLayoutOf r).readBack v := by
  have hfull : v &&& 0xFFFFFFFF = v := BitVec.and_allOnes
  cases r with
  | calCtrl => exact calCtrlWord_stored c v
  | noiseThrExp | refLowExp | refHighExp => rfl
  | pulseMs | timeoutMs | maxRounds | maxAcqFails | supTimeoutMs => exact zext_setWidth v 16
  | nSamples => exact zext_setWidth v 12
  | settleInitMs | settleMaxMs => exact zext_setWidth v 24
  | maxBatchRetries => exact zext_setWidth v 8
  | _ => exact hfull.symm

/-- Storing one configuration register leaves what every other reads as: no two of them share a field of `Cfg`. -/
theorem readCfg_storeCfg_ne (c : Cfg) (v : Word) {q r : CfgReg} (h : q ≠ r) : readCfg (storeCfg c v r) q = readCfg c q := by
  cases r <;> cases q <;> first | rfl | exact absurd rfl h

/-- Storing one configuration register leaves what every other register of the window reads as. -/
theorem readReg_storeCfg_ne (b : BuildParams) (s : State) (v : Word) {x : Reg} {r : CfgReg} (h : x ≠ .cfg r) :
    readReg b { s with cfg := storeCfg s.cfg v r } x = readReg b s x := by
  cases x with
  | cfg q => exact readCfg_storeCfg_ne s.cfg v fun e => h (congrArg Reg.cfg e)
  | _ => rfl

/-- Storing one configuration register leaves what a read at any other word answers. -/
theorem memRead_storeCfg_ne (b : BuildParams) (s : State) (v : Word) {o : BitVec 12} {r : CfgReg}
    (h : (o &&& 0xFFC).toNat ≠ (cfgLayoutOf r).offset) :
    memRead b { s with cfg := storeCfg s.cfg v r } o = memRead b s o := by
  cases ho : regAt o with
  | none => rw [memRead_unmapped ho, memRead_unmapped ho]
  | some x =>
    rw [memRead_mapped ho, memRead_mapped ho]
    refine readReg_storeCfg_ne b s v ?_
    rintro rfl
    rw [regAt_eq_some_iff, wordOffset_eq] at ho
    exact h (regMap_offset_unique ho (cfgLayoutOf_mem_regMap r))

/-- Settles O48: the row names its register, and `storeCfg` says what the write stores. -/
theorem configWrite : Obligations.ConfigWrite := by
  intro b s off v e he hoff
  obtain ⟨r, rfl⟩ := exists_cfgLayoutOf he
  have hreg : regAt off = some (.cfg r) := regAt_of_mem hoff (cfgLayoutOf_mem_regMap r)
  rw [memWrite_reg v s hreg (by simp), writeReg]
  refine ⟨fun hidle => ⟨storeCfg s.cfg v r, ?_, ?_, fun o ho => memRead_storeCfg_ne b s v ho⟩, fun hbusy => ?_⟩
  · rw [writeWhenIdle_idle _ hidle]
  · rw [memRead_mapped hreg]
    exact readCfg_storeCfg s.cfg v r
  · rw [writeWhenIdle_busy _ hbusy]
    rfl

end Sys2Proof.Proofs
end

section
/-! ## What P1 and P2 can do, and what follows for whole steps (spec/00_scope.md rules R10, R24; spec/70_reset_and_hazards.md rules R256, R267, R283) -/

namespace Sys2Proof.Proofs

open Sys2Proof.Machine Sys2Proof.Laws

/-! ### P2: the host access -/

/-- Two states with the same configuration and the same valid bit of the supply port: no command but `SOFT_RESET` writes them. -/
def SameConfigAndPort (t s : State) : Prop := t.cfg = s.cfg ∧ t.supReqValid = s.supReqValid

/-- What a host access comes to that is no `SOFT_RESET` and stores in no configuration register.
Busy or idle: flags, the latched stop request, and the bus's word (R71, R175, R184, R222-R224).
While idle: a command that runs, or a write of `FRAME` (R175, R183). -/
def HostEffect (s t : State) : Prop :=
  (∃ d r q o, t = { s with done := d, reject := r, stopReq := q, hostRdata := o }) ∨
    (s.op = .idle ∧ SameConfigAndPort t s)

/-- An access that writes only flags, the latched stop request or the bus's word. -/
theorem HostEffect.flags {s : State} (d r : Bool) (q : StopReq) (o : Option Word) :
    HostEffect s { s with done := d, reject := r, stopReq := q, hostRdata := o } :=
  .inl ⟨d, r, q, o, rfl⟩

/-- An access that only an idle block takes. -/
theorem HostEffect.whileIdle {s t : State} (hidle : s.op = .idle) (hsame : SameConfigAndPort t s) : HostEffect s t :=
  .inr ⟨hidle, hsame⟩

/-- Neither writes the configuration or the supply port. -/
theorem HostEffect.same {s t : State} (h : HostEffect s t) : SameConfigAndPort t s := by
  rcases h with ⟨d, r, q, o, rfl⟩ | ⟨-, hsame⟩
  · exact ⟨rfl, rfl⟩
  · exact hsame

/-- An access that changes nothing. -/
theorem HostEffect.refl (s : State) : HostEffect s s := .flags s.done s.reject s.stopReq s.hostRdata

/-- A rejection (R175, R182). -/
theorem setReject_effect (s : State) : HostEffect s s.setReject := .flags s.done true s.stopReq s.hostRdata

/-- A command accepted only while idle is rejected while busy, and otherwise comes to what its body does (R175). -/
theorem whenIdle_effect {f : State → State} (s : State) (hf : ∀ t, SameConfigAndPort (f t) t) :
    HostEffect s (whenIdle s f) := by
  by_cases h : s.op = .idle
  · rw [whenIdle_idle f h]
    exact .whileIdle h (hf (clearErr s))
  · rw [whenIdle_busy f h]
    exact setReject_effect s

/-- `raise` writes neither the configuration nor the supply port. -/
theorem SameConfigAndPort.raiseError {s t : State} (h : SameConfigAndPort t s) (e : ErrCode) (i : BitVec 6) :
    SameConfigAndPort (Machine.raiseError e i t) s :=
  ⟨(raiseError_cfg e i t).trans h.1, (raiseError_supReqValid e i t).trans h.2⟩

theorem decodeFrame_same (s : State) : SameConfigAndPort (decodeFrame s) s := by
  unfold decodeFrame
  split
  · exact SameConfigAndPort.raiseError (s := s) (t := s.dropRecord) ⟨rfl, rfl⟩ _ _
  · exact ⟨rfl, rfl⟩

theorem mapCommand_same (b : BuildParams) (s : State) : SameConfigAndPort (mapCommand b s) s := by
  unfold mapCommand
  split
  · exact ⟨rfl, rfl⟩
  · exact SameConfigAndPort.raiseError (s := s) (t := s) ⟨rfl, rfl⟩ _ _

theorem calStartCommand_same (s : State) : SameConfigAndPort (calStartCommand s) s := by
  unfold calStartCommand
  split
  · exact SameConfigAndPort.raiseError (s := s) (t := s.accept) ⟨rfl, rfl⟩ _ _
  · exact ⟨gotoState_cfg _ _, gotoState_supReqValid _ _⟩

/-- A stop command in its three cases (R175, R222-R224). -/
theorem stopCommand_effect (r : StopReq) (s : State) : HostEffect s (stopCommand r s) := by
  unfold stopCommand
  split
  · exact .whileIdle ‹_› ⟨rfl, rfl⟩
  · split
    · exact .flags s.done s.reject r s.hostRdata
    · exact setReject_effect s

/-- An illegal command word in its two cases (R180). -/
theorem illegalCommand_effect (s : State) : HostEffect s (illegalCommand s) := by
  unfold illegalCommand
  by_cases h : s.op = .idle
  · rw [busy_eq_false h]
    exact .whileIdle h (SameConfigAndPort.raiseError (s := s) (t := s) ⟨rfl, rfl⟩ _ _)
  · rw [busy_eq_true h]
    exact setReject_effect s

/-- `SOFT_RESET`'s word is 0x1F and no other (R92). -/
theorem word_of_decode_softReset {v : Word} (h : decode (.command v) = .ok .softReset) : v = 0x0000001F := by
  have hopc : ∀ b : Byte, commandOfOpcode b = .ok .softReset → b = 0x1F := by decide
  obtain ⟨hrsv, hcmd⟩ := (decode_command_iff v .softReset).mp h
  rw [word_of_opcode v hrsv, hopc _ hcmd]
  rfl

/-- What a command issue can come to (R175). -/
theorem commandIssue_cases (v : Word) (s : State) :
    (v = 0x0000001F ∧ commandIssue v s = .next (resetBlock s)) ∨ ∃ t, commandIssue v s = .next t ∧ HostEffect s t := by
  cases hd : decode (.command v) with
  | error e => exact .inr ⟨_, commandIssue_illegal s hd, illegalCommand_effect s⟩
  | ok i =>
    rw [commandIssue_decoded s hd]
    rcases decode_command_cases hd with rfl | rfl | rfl | rfl | rfl | rfl | rfl | rfl | rfl | rfl | rfl
    · exact .inr ⟨_, rfl, whenIdle_effect s fun _ => ⟨rfl, rfl⟩⟩
    · exact .inr ⟨_, rfl, whenIdle_effect s fun _ => ⟨rfl, rfl⟩⟩
    · exact .inr ⟨_, rfl, whenIdle_effect s decodeFrame_same⟩
    · exact .inr ⟨_, rfl, whenIdle_effect s (mapCommand_same _)⟩
    · exact .inr ⟨_, rfl, whenIdle_effect s fun _ => ⟨rfl, rfl⟩⟩
    · exact .inr ⟨_, rfl, whenIdle_effect s calStartCommand_same⟩
    · exact .inr ⟨_, rfl, stopCommand_effect .keep s⟩
    · exact .inr ⟨_, rfl, stopCommand_effect .adjust s⟩
    · exact .inr ⟨_, rfl, stopCommand_effect .abort s⟩
    · exact .inr ⟨_, rfl, whenIdle_effect s fun _ => ⟨rfl, rfl⟩⟩
    · exact .inl ⟨word_of_decode_softReset hd, rfl⟩

/-- What a write of a register other than `CMD` can come to (R72, R182-R184). -/
theorem writeReg_cases (r : Reg) (v : Word) (s : State) :
    (∃ q, r = .cfg q ∧ s.op = .idle ∧ writeReg r v s = { s with cfg := storeCfg s.cfg v q }) ∨
      HostEffect s (writeReg r v s) := by
  cases r with
  | status => exact .inr (.flags _ _ s.stopReq s.hostRdata)
  | cfg q =>
    by_cases h : s.op = .idle
    · exact .inl ⟨q, rfl, h, writeWhenIdle_idle _ h⟩
    · rw [writeReg, writeWhenIdle_busy _ h]
      exact .inr (setReject_effect s)
  | frame i =>
    right
    by_cases h : s.op = .idle
    · rw [writeReg, writeWhenIdle_idle _ h]
      exact .whileIdle h ⟨rfl, rfl⟩
    · rw [writeReg, writeWhenIdle_busy _ h]
      exact setReject_effect s
  | _ => exact .inr (HostEffect.refl s)

/-- What P2 can come to: `SOFT_RESET`, a store in a configuration register of an idle block, or an effect that leaves the configuration and the supply port. -/
theorem phaseP2_cases (inp : StepInput) (s : State) :
    (∃ off, off.toNat < 4 ∧ inp.host = some (.write off 0x0000001F) ∧ phaseP2 inp s = .next (resetBlock s)) ∨
      (∃ off v q, inp.host = some (.write off v) ∧ regAt off = some (.cfg q) ∧ s.op = .idle ∧
        phaseP2 inp s = .next { s with cfg := storeCfg s.cfg v q }) ∨
      ∃ t, phaseP2 inp s = .next t ∧ HostEffect s t := by
  match hh : inp.host with
  | none => exact .inr (.inr ⟨s, phaseP2_none s hh, HostEffect.refl s⟩)
  | some (.read off) => exact .inr (.inr ⟨_, phaseP2_read s hh, .flags s.done s.reject s.stopReq _⟩)
  | some (.write off v) =>
    rw [phaseP2_write s hh]
    rcases memWrite_cases off v s with ⟨hoff, hcmd⟩ | ⟨r, hreg, hw⟩ | hw
    · rw [hcmd]
      rcases commandIssue_cases v s with ⟨rfl, h⟩ | h
      · exact .inl ⟨off, hoff, rfl, h⟩
      · exact .inr (.inr h)
    · rcases writeReg_cases r v s with ⟨q, rfl, hidle, hst⟩ | h
      · exact .inr (.inl ⟨off, v, q, rfl, hreg, hidle, by rw [hw, hst]⟩)
      · exact .inr (.inr ⟨_, hw, h⟩)
    · exact .inr (.inr ⟨s, hw, HostEffect.refl s⟩)

/-- P2 always answers a next state. -/
theorem phaseP2_next (inp : StepInput) (s : State) : ∃ t, phaseP2 inp s = .next t := by
  rcases phaseP2_cases inp s with ⟨_, -, -, h⟩ | ⟨_, _, _, -, -, -, h⟩ | ⟨t, h, -⟩ <;> exact ⟨_, h⟩

/-! ### P1: the received byte and the sequencer -/

/-- What the byte capture can come to (R126): nothing without a byte, and the capture of the byte, symbol or not. -/
theorem receive_cases (rx : Option Byte) (s : State) :
    receive rx s = .next s ∨ ∃ b, receive rx s = .next (capture b s) := by
  cases rx with
  | none => exact .inl rfl
  | some b =>
    right
    cases hd : decode (.transport b) with
    | error e => exact ⟨b, by simp only [receive, hd]⟩
    | ok i =>
      rw [receive_decoded s hd, decode_transport_cases hd]
      exact ⟨_, rfl⟩

/-- The byte capture always answers a next state, and it leaves what no part of P1 writes. -/
theorem receive_sameHost (rx : Option Byte) (s : State) : ∃ t, receive rx s = .next t ∧ SameHost t s := by
  rcases receive_cases rx s with h | ⟨b, h⟩
  · exact ⟨s, h, SameHost.refl s⟩
  · exact ⟨_, h, capture_sameHost b s⟩

/-- Settles O53: no acquisition waits for a byte, the sequencer has no step, and P2 has no access. -/
theorem idleStep : Obligations.IdleStep := by
  intro s h hidle hrst hhost
  obtain ⟨-, hsub, -⟩ := blockInv_idle h hidle
  have hrx : receive s.input.rx s.begin = .next s.begin := by
    rcases receive_cases s.input.rx s.begin with hr | ⟨b, hr⟩
    · exact hr
    · rw [hr, capture_ignored b (by simp [State.acquiring, hsub])]
  have hadv : advance Config.build s.input s.begin = .next s.begin := by simp only [advance, State.begin_op, hidle]
  rw [step_of_receive hrst hrx, hadv]
  exact phaseP2_none _ hhost

/-- From a state of the invariant P1 has a next state: the sequencer meets none of its faults (R256, log entry 6). -/
theorem phaseP1_next {inp : StepInput} {s : State} (h : BlockInv s) : ∃ t, phaseP1 inp s = .next t := by
  obtain ⟨u, hu, -⟩ := receive_sameHost inp.rx s
  rw [phaseP1_of_receive hu]
  have hadv := advanceInv_advance (blockInv_receive h _ hu) inp
  cases ha : advance Config.build inp u with
  | next t => exact ⟨t, rfl⟩
  | issue i w =>
    rw [ha] at hadv
    obtain ⟨t, ht, -⟩ := hadv
    exact ⟨t, ht⟩
  | stop f =>
    rw [ha] at hadv
    exact hadv.elim

/-- Settles O56: each phase has a next state. -/
theorem stepNeverStops : Obligations.StepNeverStops := by
  intro s h
  cases hrst : s.input.rst with
  | true => exact ⟨_, step_of_rst hrst⟩
  | false =>
    obtain ⟨u, hu⟩ := phaseP1_next (inp := s.input) (blockInv_begin h)
    rw [step_of_phaseP1 hrst hu]
    exact phaseP2_next s.input u

/-- A supply request's meaning is its emission (R114). -/
theorem exec_supplyRequest {i : Instr} (h : IsSupplyRequest i) :
    ∃ op arg w, ∀ s, exec i s = .next (emitRequest op arg w s) := by
  cases i with
  | supIdentify arg => exact ⟨1, arg, .tIdent, fun _ => rfl⟩
  | supReadOffset arg => exact ⟨2, arg, .tRoff, fun _ => rfl⟩
  | supReadGain arg => exact ⟨3, arg, .tRgain, fun _ => rfl⟩
  | supSetOutput arg => exact ⟨4, arg, .tSet, fun _ => rfl⟩
  | supWriteOffset arg => exact ⟨5, arg, .tWoff, fun _ => rfl⟩
  | supWriteGain arg => exact ⟨6, arg, .tWgain, fun _ => rfl⟩
  | supReadTemp arg => exact ⟨7, arg, .tTemp, fun _ => rfl⟩
  | _ =>
    obtain ⟨_, _, hport, -⟩ := h
    cases hport

/-- P1 leaves the configuration (R29). -/
theorem phaseP1_cfg {inp : StepInput} {s t : State} (h : phaseP1 inp s = .next t) : t.cfg = s.cfg := by
  obtain ⟨u, hu, hsame⟩ := receive_sameHost inp.rx s
  rw [phaseP1_of_receive hu] at h
  have hadv := advance_sameHost Config.build inp u
  cases ha : advance Config.build inp u with
  | next w =>
    rw [ha] at h hadv
    cases h
    exact hadv.cfg.trans hsame.cfg
  | issue i w =>
    rw [ha] at h hadv
    obtain ⟨op, arg, pt, hexec⟩ := exec_supplyRequest (isSupplyRequest_of_issue ha)
    cases (hexec w).symm.trans h
    exact hadv.cfg.trans hsame.cfg
  | stop f =>
    rw [ha] at h
    cases h

/-- The configuration registers stand at 0x20 to 0x7F (R86). -/
theorem range_of_regAt_cfg {off : BitVec 12} {q : CfgReg} (h : regAt off = some (.cfg q)) :
    0x20 ≤ off.toNat ∧ off.toNat < 0x80 := by
  have hoff := regMap_offset_unique ((regAt_eq_some_iff off _).mp h) (cfgLayoutOf_mem_regMap q)
  have hrow : 0x20 ≤ (cfgLayoutOf q).offset ∧ (cfgLayoutOf q).offset < 0x80 := by cases q <;> decide
  unfold wordOffset at hoff
  omega

/-- Settles O60: P1 leaves the configuration, and P2 changes it by `SOFT_RESET` or by a store while idle. -/
theorem configFrozen : Obligations.ConfigFrozen := by
  intro s t hstep hne
  cases hrst : s.input.rst with
  | true => exact .inl rfl
  | false =>
    right
    rw [step_of_not_rst hrst] at hstep
    obtain ⟨u, hu, hP2⟩ := andThen_eq_next hstep
    have hcfg : u.cfg = s.cfg := (phaseP1_cfg hu).trans (State.begin_cfg s)
    rcases phaseP2_cases s.input u with ⟨off, hoff, hw, -⟩ | ⟨off, v, q, hw, hreg, hidle, hr⟩ | ⟨w, hr, heff⟩
    · exact ⟨off, _, hw, .inl ⟨hoff, rfl⟩⟩
    · cases hr.symm.trans hP2
      obtain ⟨hlo, hhi⟩ := range_of_regAt_cfg hreg
      exact ⟨off, v, hw, .inr ⟨hlo, hhi, hidle⟩⟩
    · cases hr.symm.trans hP2
      exact absurd (heff.same.1.trans hcfg) hne

/-! ### The requests on the supply port (R114, R228) -/

/-- The port shows a request of the table, from the state that issues it, with its argument (R24, R114, R228). -/
def RequestOnPort (t : State) : Prop :=
  t.op = .cal ∧ t.supPending = true ∧ t.tmr = 0 ∧
    ((t.calState = .readCal ∧ t.supReqArg = 0 ∧
        ((t.supReqOp = 1 ∧ t.substep = .tIdent) ∨ (t.supReqOp = 2 ∧ t.substep = .tRoff) ∨ (t.supReqOp = 3 ∧ t.substep = .tRgain))) ∨
      (t.calState = .setLow ∧ t.supReqArg = t.cfg.setLowArg ∧ t.supReqOp = 4 ∧ t.substep = .tSet) ∨
      (t.calState = .setHigh ∧ t.supReqArg = t.cfg.setHighArg ∧ t.supReqOp = 4 ∧ t.substep = .tSet) ∨
      (t.calState = .writeCal ∧
        ((t.supReqArg = t.ses.newOffset ∧ t.supReqOp = 5 ∧ t.substep = .tWoff) ∨
          (t.supReqArg = t.ses.newGain ∧ t.supReqOp = 6 ∧ t.substep = .tWgain))) ∨
      (t.calState = .logRound ∧ t.supReqArg = 0 ∧ t.supReqOp = 7 ∧ t.substep = .tTemp))

/-- The request a step of the sequencer issues, if it issues one, meets `RequestOnPort` once it runs. -/
def IssuesOnPort : Advance → Prop
  | .next _ => True
  | .issue i u => ∃ t, exec i u = .next t ∧ RequestOnPort t
  | .stop _ => True

/-- A transaction's await issues what its response issues. -/
theorem awaitTxn_onPort {op : BitVec 6} {inp : StepInput} {f : Word → State → Advance} {s : State}
    (hf : ∀ d, IssuesOnPort (f d { s with supPending := false })) : IssuesOnPort (awaitTxn op inp f s) := by
  unfold awaitTxn
  rcases txnStep_cases inp.tick inp.rsp s with ⟨d, h, -⟩ | h | h <;> rw [h]
  · exact hf d
  · trivial
  · trivial

theorem readCalStep_onPort {s : State} (inp : StepInput) (hop : s.op = .cal) (hc : s.calState = .readCal) :
    IssuesOnPort (readCalStep inp s) := by
  unfold readCalStep
  split
  · exact ⟨_, rfl, hop, rfl, rfl, .inl ⟨hc, rfl, .inl ⟨rfl, rfl⟩⟩⟩
  · exact awaitTxn_onPort fun _ => ⟨_, rfl, hop, rfl, rfl, .inl ⟨hc, rfl, .inr (.inl ⟨rfl, rfl⟩)⟩⟩
  · exact awaitTxn_onPort fun _ => ⟨_, rfl, hop, rfl, rfl, .inl ⟨hc, rfl, .inr (.inr ⟨rfl, rfl⟩)⟩⟩
  · exact awaitTxn_onPort fun _ => trivial
  · trivial

theorem setStep_onPort {s : State} (p : Point) (inp : StepInput) (hop : s.op = .cal) (hc : s.calState = p.setState) :
    IssuesOnPort (setStep p inp s) := by
  unfold setStep
  split
  · cases p with
    | low => exact ⟨_, rfl, hop, rfl, rfl, .inr (.inl ⟨hc, rfl, rfl, rfl⟩)⟩
    | high => exact ⟨_, rfl, hop, rfl, rfl, .inr (.inr (.inl ⟨hc, rfl, rfl, rfl⟩))⟩
  · exact awaitTxn_onPort fun _ => trivial
  · trivial
  · trivial

theorem writeCalStep_onPort {s : State} (inp : StepInput) (hop : s.op = .cal) (hc : s.calState = .writeCal) :
    IssuesOnPort (writeCalStep inp s) := by
  unfold writeCalStep
  split
  · exact ⟨_, rfl, hop, rfl, rfl, .inr (.inr (.inr (.inl ⟨hc, .inl ⟨rfl, rfl, rfl⟩⟩)))⟩
  · exact awaitTxn_onPort fun _ => ⟨_, rfl, hop, rfl, rfl, .inr (.inr (.inr (.inl ⟨hc, .inr ⟨rfl, rfl, rfl⟩⟩)))⟩
  · exact awaitTxn_onPort fun _ => trivial
  · trivial

theorem logRoundStep_onPort {s : State} (inp : StepInput) (hop : s.op = .cal) (hc : s.calState = .logRound) :
    IssuesOnPort (logRoundStep inp s) := by
  unfold logRoundStep
  split
  · exact ⟨_, rfl, hop, rfl, rfl, .inr (.inr (.inr (.inr ⟨hc, rfl, rfl, rfl⟩)))⟩
  · exact awaitTxn_onPort fun _ => trivial
  · trivial
  · trivial

/-- A batch's loop issues no request: it holds, starts a sample, or leaves the state. -/
theorem measureLoop_onPort (p : Point) (s : State) : IssuesOnPort (measureLoop p s) := by
  unfold measureLoop finishBatch
  split
  · trivial
  · split
    · split <;> trivial
    · trivial

theorem sampleFailed_onPort (p : Point) (s : State) : IssuesOnPort (sampleFailed p s) := by
  unfold sampleFailed
  simp only
  split
  · trivial
  · exact measureLoop_onPort p _

theorem measStep_onPort (b : BuildParams) (p : Point) (inp : StepInput) (s : State) : IssuesOnPort (measStep b p inp s) := by
  unfold measStep measureRead
  split
  · exact measureLoop_onPort p _
  · trivial
  · simp only
    split
    · trivial
    · exact sampleFailed_onPort p _
    · split
      · exact sampleFailed_onPort p _
      · exact measureLoop_onPort p _
  · trivial

theorem computeStep_onPort (s : State) : IssuesOnPort (computeStep s) := by
  unfold computeStep
  split
  · split <;> trivial
  · trivial

/-- Whatever the sequencer issues is a request of the table, in every state (R228). -/
theorem advance_onPort (b : BuildParams) (inp : StepInput) (s : State) : IssuesOnPort (advance b inp s) := by
  cases hop : s.op with
  | cal =>
    rw [advance_cal hop]
    cases hc : s.calState with
    | readCal => simpa only [calStep, hc] using readCalStep_onPort inp hop hc
    | setLow => exact calStep_set (p := .low) hc ▸ setStep_onPort .low inp hop hc
    | setHigh => exact calStep_set (p := .high) hc ▸ setStep_onPort .high inp hop hc
    | measLow => exact calStep_meas (p := .low) hc ▸ measStep_onPort b .low inp s
    | measHigh => exact calStep_meas (p := .high) hc ▸ measStep_onPort b .high inp s
    | compute => simpa only [calStep, hc] using computeStep_onPort s
    | writeCal => simpa only [calStep, hc] using writeCalStep_onPort inp hop hc
    | logRound => exact calStep_logRound hc ▸ logRoundStep_onPort inp hop hc
    | idle | converged | failed | aborted =>
      simp only [calStep, hc]
      trivial
  | _ =>
    simp only [advance, hop]
    trivial

/-- P1 of a step that begins with no request on the port leaves one of the table or none (R24). -/
theorem phaseP1_onPort {inp : StepInput} {s t : State} (hs : s.supReqValid = false) (h : phaseP1 inp s = .next t)
    (hv : t.supReqValid = true) : RequestOnPort t := by
  obtain ⟨u, hu, hsame⟩ := receive_sameHost inp.rx s
  rw [phaseP1_of_receive hu] at h
  cases ha : advance Config.build inp u with
  | next w =>
    have hadv := advance_sameHost Config.build inp u
    rw [ha] at h hadv
    cases h
    rw [hadv.supReqValid, hsame.supReqValid, hs] at hv
    cases hv
  | issue i w =>
    have hadv := advance_onPort Config.build inp u
    rw [ha] at h hadv
    obtain ⟨r, hr, hport⟩ := hadv
    cases hr.symm.trans h
    exact hport
  | stop f =>
    rw [ha] at h
    cases h

/-- P2 keeps the request P1 left on the port, or resets the block (R175, R179). -/
theorem phaseP2_onPort {inp : StepInput} {s t : State} (hs : s.supReqValid = true → RequestOnPort s)
    (h : phaseP2 inp s = .next t) (hv : t.supReqValid = true) : RequestOnPort t := by
  rcases phaseP2_cases inp s with ⟨_, -, -, hr⟩ | ⟨_, _, _, -, -, hidle, hr⟩ | ⟨u, hr, heff⟩
  · cases hr.symm.trans h
    cases hv
  · cases hr.symm.trans h
    cases hidle.symm.trans (hs hv).1
  · cases hr.symm.trans h
    rcases heff with ⟨d, r, q, o, rfl⟩ | ⟨hidle, -, hvalid⟩
    · exact hs hv
    · cases hidle.symm.trans (hs (hvalid ▸ hv)).1

/-- Settles O59: P1 leaves a request of the table or none, and P2 raises none. -/
theorem emittedRequests : Obligations.EmittedRequests := by
  intro s t hstep hv
  show RequestOnPort t
  cases hrst : s.input.rst with
  | true =>
    rw [step_of_rst hrst] at hstep
    cases hstep
    cases hv
  | false =>
    rw [step_of_not_rst hrst] at hstep
    obtain ⟨u, hu, hP2⟩ := andThen_eq_next hstep
    exact phaseP2_onPort (phaseP1_onPort rfl hu) hP2 hv

end Sys2Proof.Proofs
end

section
/-! ## The Reading is exact (spec/10_state.md rule R48, spec/42_reading_mapper.md rules R152, R154, R155) -/

namespace Sys2Proof.Proofs

open Sys2Proof.Machine

/-! ### The text of the six cells -/

/-- Is the character a digit? -/
def isDigit : TextChar → Bool
  | .digit _ => true
  | .letterE | .letterL | .letterN | .letterR | .minus | .point => false

/-- A cell's characters (R152): at most a flag's, which is no digit, and at most one glyph. -/
theorem cellText_split (b : BuildParams) (r : Record) (k : Fin 6) :
    ∃ flag shown, cellText b r k = flag ++ shown ∧ flag.length ≤ 1 ∧ flag.countP isDigit = 0 ∧ shown.length ≤ 1 := by
  refine ⟨_, _, rfl, ?_, ?_, ?_⟩
  · split <;> simp
  · split
    · split <;> rfl
    · rfl
  · split
    · exact Nat.zero_le 1
    · split <;> simp

/-- A cell shows at most two characters and at most one digit. -/
theorem cellText_bounds (b : BuildParams) (r : Record) (k : Fin 6) :
    (cellText b r k).length ≤ 2 ∧ (cellText b r k).countP isDigit ≤ 1 := by
  obtain ⟨flag, shown, heq, hflag, hnone, hshown⟩ := cellText_split b r k
  have hdig : shown.countP isDigit ≤ shown.length := List.countP_le_length
  rw [heq, List.length_append, List.countP_append]
  omega

/-- The display shows at most 12 characters and at most 6 digits (R48, R152). -/
theorem displayText_bounds (b : BuildParams) (r : Record) :
    (displayText b r).length ≤ 12 ∧ (displayText b r).countP isDigit ≤ 6 := by
  have hcells : displayText b r = cellText b r 0 ++ cellText b r 1 ++ cellText b r 2 ++ cellText b r 3 ++ cellText b r 4
      ++ cellText b r 5 := by
    simp [displayText, List.finRange_succ]
  have hb := cellText_bounds b r
  have h0 := hb 0
  have h1 := hb 1
  have h2 := hb 2
  have h3 := hb 3
  have h4 := hb 4
  have h5 := hb 5
  simp only [hcells, List.length_append, List.countP_append]
  omega

/-! ### The parse (R154) -/

/-- The digits taken from a text and what follows them are the text. -/
theorem takeDigits_append (text : List TextChar) :
    (takeDigits text).1.map TextChar.digit ++ (takeDigits text).2 = text := by
  fun_induction takeDigits text with
  | case1 d rest ih => simpa using ih
  | case2 => rfl

/-- What follows the sign is an end of the text. -/
theorem takeSign_suffix (text : List TextChar) : (takeSign text).2 <:+ text := by
  unfold takeSign
  split
  · exact List.suffix_cons _ _
  · exact List.suffix_refl _

/-- The fraction's digits stand in the text in their order. -/
theorem takeFraction_sublist (text : List TextChar) : ((takeFraction text).map TextChar.digit).Sublist text := by
  unfold takeFraction
  split
  next rest =>
    refine List.Sublist.cons _ ?_
    conv_rhs => rw [← takeDigits_append rest]
    exact List.sublist_append_left _ _
  next => exact List.nil_sublist _

/-- The digits a parse reads, whole part and fraction. -/
def parsedDigits (text : List TextChar) : List (Fin 10) :=
  (takeDigits (takeSign text).2).1 ++ takeFraction (takeDigits (takeSign text).2).2

theorem parsedDigits_eq (text : List TextChar) : parsedDigits text =
    (takeDigits (takeSign text).2).1 ++ takeFraction (takeDigits (takeSign text).2).2 := rfl

/-- The parse reads digits of the text, each once. -/
theorem parsedDigits_length_le (text : List TextChar) : (parsedDigits text).length ≤ text.countP isDigit := by
  have hsub : ((parsedDigits text).map TextChar.digit).Sublist text := by
    rw [parsedDigits_eq, List.map_append]
    refine List.Sublist.trans ?_ (takeSign_suffix text).sublist
    conv_rhs => rw [← takeDigits_append (takeSign text).2]
    exact (takeFraction_sublist _).append_left _
  have hall : ∀ c ∈ (parsedDigits text).map TextChar.digit, isDigit c = true := by
    intro c hc
    obtain ⟨d, -, rfl⟩ := List.mem_map.mp hc
    rfl
  calc (parsedDigits text).length
      = ((parsedDigits text).map TextChar.digit).countP isDigit := by
        rw [List.countP_eq_length.mpr hall, List.length_map]
    _ ≤ text.countP isDigit := hsub.countP_le

/-- A number of n decimal digits is below 10^n. -/
theorem digitsValue_lt (ds : List (Fin 10)) : digitsValue ds < 10 ^ ds.length := by
  induction ds using List.reverseRecOn with
  | nil => decide
  | append_singleton ds d ih =>
    have hd := d.isLt
    simp only [digitsValue, List.foldl_append, List.foldl_cons, List.foldl_nil, List.length_append,
      List.length_singleton, pow_succ] at ih ⊢
    omega

/-- The parse of a text with at most n digits: the mantissa is below 10^n, and the exponent in -n..0. -/
theorem parseText_bounds {text : List TextChar} {n : Nat} (h : text.countP isDigit ≤ n) :
    (parseText text).mant < 10 ^ n ∧ -(n : ℤ) ≤ (parseText text).exp ∧ (parseText text).exp ≤ 0 := by
  have hlen : (parsedDigits text).length ≤ n := (parsedDigits_length_le text).trans h
  have hval : digitsValue (parsedDigits text) < 10 ^ n :=
    (digitsValue_lt _).trans_le (Nat.pow_le_pow_right (by decide) hlen)
  have hfrac : (takeFraction (takeDigits (takeSign text).2).2).length ≤ n := by
    rw [parsedDigits_eq, List.length_append] at hlen
    omega
  unfold parseText
  simp only
  split
  · exact ⟨by positivity, by simp, le_refl _⟩
  · exact ⟨hval, by simp only; omega, by simp only; omega⟩

/-! ### The Reading -/

/-- The scale's power of ten by the flags (R139, R155). -/
theorem scaleOf_power (r : Record) : (scaleOf r).power =
    (if r[1].getLsbD 0 || r[15].getLsbD 4 then 0 else if r[1].getLsbD 7 then 6 else if r[1].getLsbD 6 then 3
    else if r[1].getLsbD 1 then -3 else if r[1].getLsbD 2 then -6 else if r[2].getLsbD 6 then -9 else 0 : ℤ) := by
  unfold scaleOf flagDbm flagPercent flagMega flagKilo flagMilli flagMicro flagNano
  split_ifs <;> rfl

/-- A scale's power of ten is in -9..6. -/
theorem power_bounds (x : Scale) : -9 ≤ x.power ∧ x.power ≤ 6 := by
  cases x <;> decide

/-- A number in the range of a signed byte is stored as it is. -/
theorem toInt_ofInt_byte {z : ℤ} (hlo : -128 ≤ z) (hhi : z < 128) : (BitVec.ofInt 8 z).toInt = z := by
  rw [BitVec.toInt_ofInt]
  exact Int.bmod_eq_of_le (by simpa using hlo) (by simpa using hhi)

/-- Settles O42: with at most six digits and twelve characters every register is wide enough. -/
theorem readingExact : Obligations.ReadingExact := by
  intro b r p d power
  obtain ⟨hlen, hdig⟩ := displayText_bounds b r
  obtain ⟨hmant, hlo, hhi⟩ : p.mant < 10 ^ 6 ∧ -(6 : ℤ) ≤ p.exp ∧ p.exp ≤ 0 := parseText_bounds hdig
  obtain ⟨hplo, hphi⟩ := power_bounds (scaleOf r)
  have hpow : (scaleOf r).power = power := scaleOf_power r
  have hm : d.mant.toNat = p.mant := by
    show (BitVec.ofNat 20 p.mant).toNat = p.mant
    rw [BitVec.toNat_ofNat, Nat.mod_eq_of_lt (by omega)]
  have he : d.exp.toInt = p.exp + power := by
    rw [← hpow]
    exact toInt_ofInt_byte (z := p.exp + (scaleOf r).power) (by omega) (by omega)
  have ht : d.textLen.toNat = (displayText b r).length := by
    show (BitVec.ofNat 4 _).toNat = _
    rw [BitVec.toNat_ofNat, Nat.mod_eq_of_lt (by omega)]
  refine ⟨hm, by omega, rfl, hpow, he, by omega, by omega, rfl, ht, hlen, fun j => ?_⟩
  show (textBytes (displayText b r))[j] = _
  simp only [textBytes, Fin.getElem_fin, Vector.getElem_ofFn]
  cases (displayText b r)[j.val]? <;> rfl

end Sys2Proof.Proofs
end

section
/-! ## Writes of `FRAME`, `STATUS` and the read-only part of the window (spec/20_memory.md rule R72, spec/43_host_commands.md rules R183, R184) -/

namespace Sys2Proof.Proofs

open Sys2Proof.Machine Sys2Proof.Laws

/-- `STATUS`'s place in the map (R31). -/
theorem status_mem_regMap : (0x004, Reg.status) ∈ regMap := by
  simp [regMap, regMapControl]

/-- The registers and views whose writes are ignored (R72): all but `CMD`, `STATUS`, the configuration and `FRAME`. -/
def isReadOnly : Reg → Bool
  | .cmd | .status | .cfg _ | .frame _ => false
  | .calStatus | .rxCount | .timer => true
  | .recByte _ | .dsFlags | .dsSwpos | .dsCell _ | .dsBarLo | .dsBarHi => true
  | .rdMant | .rdExp | .rdAttr | .rdTextLen | .rdText _ | .rdUnmapped => true
  | .ses _ => true

/-- A write of a read-only register or view is ignored (R72). -/
theorem writeReg_readOnly {r : Reg} (v : Word) (s : State) (h : isReadOnly r = true) : writeReg r v s = s := by
  cases r with
  | status | cfg _ | frame _ => simp [isReadOnly] at h
  | _ => rfl

/-- The registers a write can act on stand at 0 to 7, 0x20 to 0x7F and 0x100 to 0x18B (R86). -/
theorem range_of_regAt_writable {off : BitVec 12} {r : Reg} (h : regAt off = some r) (hr : isReadOnly r = false) :
    off.toNat < 8 ∨ (0x20 ≤ off.toNat ∧ off.toNat < 0x80) ∨ (0x100 ≤ off.toNat ∧ off.toNat < 0x18C) := by
  have hmem := (regAt_eq_some_iff off r).mp h
  cases r with
  | cmd =>
    have hoff := toNat_lt_of_regAt_cmd h
    omega
  | status =>
    have hoff := regMap_offset_unique hmem status_mem_regMap
    unfold wordOffset at hoff
    omega
  | cfg q => exact .inr (.inl (range_of_regAt_cfg h))
  | frame i =>
    have hoff := regMap_offset_unique hmem (frame_mem_regMap i)
    unfold wordOffset at hoff
    omega
  | _ => simp [isReadOnly] at hr

/-- Outside the writable ranges a write changes nothing: the offset is unmapped, or it names a read-only register (R72). -/
theorem memWrite_ignored {off : BitVec 12} (v : Word) (s : State)
    (hoff : ¬ (off.toNat < 8 ∨ (0x20 ≤ off.toNat ∧ off.toNat < 0x80) ∨ (0x100 ≤ off.toNat ∧ off.toNat < 0x18C))) :
    memWrite off v s = .next s := by
  cases h : regAt off with
  | none => exact memWrite_unmapped v s h
  | some r =>
    cases hr : isReadOnly r with
    | false => exact absurd (range_of_regAt_writable h hr) hoff
    | true =>
      have hcmd : r ≠ .cmd := by
        rintro rfl
        simp [isReadOnly] at hr
      rw [memWrite_reg v s h hcmd, writeReg_readOnly v s hr]

/-- A write of `FRAME[i]` while idle stores the word's low byte (R183). -/
theorem memWrite_frame_idle {off : BitVec 12} {i : Fin 35} (v : Word) {s : State} (h : regAt off = some (.frame i))
    (hidle : s.op = .idle) :
    memWrite off v s = .next { s with frame := s.frame.set i.val (v.extractLsb' 0 8) } := by
  rw [memWrite_reg v s h (by simp), writeReg, writeWhenIdle_idle _ hidle, BitVec.setWidth_eq_extractLsb' (by decide)]

/-- A write of `FRAME[i]` while busy sets `REJECT` and stores nothing (R183). -/
theorem memWrite_frame_busy {off : BitVec 12} {i : Fin 35} (v : Word) {s : State} (h : regAt off = some (.frame i))
    (hbusy : s.op ≠ .idle) : memWrite off v s = .next { s with reject := true } := by
  rw [memWrite_reg v s h (by simp), writeReg, writeWhenIdle_busy _ hbusy]
  rfl

/-- A write-one-to-clear bit: a 1 clears the flag, a 0 leaves it (R184). -/
theorem and_not_eq_ite (flag clear : Bool) : (flag && !clear) = if clear then false else flag := by
  cases clear <;> simp

/-- A write of `STATUS` clears `DONE` and `REJECT` where bits 1 and 3 are set, busy or idle (R184). -/
theorem memWrite_status {off : BitVec 12} (v : Word) (s : State) (h : regAt off = some .status) :
    memWrite off v s = .next { s with
      done := if v.getLsbD 1 then false else s.done
      reject := if v.getLsbD 3 then false else s.reject } := by
  rw [memWrite_reg v s h (by simp), writeReg, writeStatus, and_not_eq_ite, and_not_eq_ite]

/-- Settles O49: the offset's place in the map names the register, or shows that the write is ignored. -/
theorem otherWrites : Obligations.OtherWrites := by
  intro s off v
  refine ⟨fun i hi => ?_, fun hst => memWrite_status v s (regAt_of_mem hst status_mem_regMap),
    fun hro => memWrite_ignored v s (by omega)⟩
  have hreg : regAt off = some (.frame i) := regAt_of_mem hi (frame_mem_regMap i)
  exact ⟨memWrite_frame_idle v hreg, memWrite_frame_busy v hreg⟩

end Sys2Proof.Proofs
end

section
/-! ## Decoder and encoder (spec/30_encoding.md rules R90-R97, R114) -/

namespace Sys2Proof.Proofs

open Sys2Proof.Machine Sys2Proof.Laws

/-! ### Command words (R90-R93) -/

/-- The opcodes of R92 with their commands. -/
def opcodeTable : List (Byte × Instr) :=
  [(0x00, .nop), (0x01, .acquire), (0x02, .decode), (0x03, .map), (0x04, .sample), (0x10, .calStart), (0x11, .calStopKeep),
    (0x12, .calStopAdjust), (0x13, .calAbort), (0x1E, .clear), (0x1F, .softReset)]

/-- The opcode map is the table. -/
theorem commandOfOpcode_iff_mem (opc : Byte) (i : Instr) : commandOfOpcode opc = .ok i ↔ (opc, i) ∈ opcodeTable := by
  constructor
  · intro h
    unfold commandOfOpcode at h
    iterate 11
      split at h
      · cases h; subst opc; decide
    cases h
  · have htable : ∀ e ∈ opcodeTable, commandOfOpcode e.1 = .ok e.2 := by decide
    exact htable (opc, i)

/-- An opcode has a command exactly when it is in the table's first column. -/
theorem exists_mem_opcodeTable_iff (opc : Byte) : (∃ i, (opc, i) ∈ opcodeTable) ↔ opc ∈ opcodeTable.map Prod.fst := by
  simp [List.mem_map]

/-- A word decodes exactly when `RSV` is 0 and the table has its opcode. -/
theorem decode_command_iff_mem (v : Word) (i : Instr) :
    decode (.command v) = .ok i ↔ v.extractLsb' 8 24 = 0 ∧ (v.extractLsb' 0 8, i) ∈ opcodeTable := by
  rw [decode_command_iff, commandOfOpcode_iff_mem]

/-- A command is encoded as its opcode with `RSV` = 0. -/
theorem encode_of_mem_opcodeTable {opc : Byte} {i : Instr} (h : (opc, i) ∈ opcodeTable) :
    encode i = .command (opc.setWidth 32) ∧ i.WellFormed := by
  have htable : ∀ e ∈ opcodeTable, encode e.2 = .command (e.1.setWidth 32) ∧ e.2.WellFormed := by decide
  exact htable (opc, i) h

/-- A command word that decodes is the encoding of its command: `RSV` is 0, so the opcode is the whole word. -/
theorem encode_of_decode_command {v : Word} {i : Instr} (h : decode (.command v) = .ok i) :
    encode i = .command v ∧ i.WellFormed := by
  obtain ⟨hrsv, hmem⟩ := (decode_command_iff_mem v i).mp h
  rw [word_of_opcode v hrsv]
  exact encode_of_mem_opcodeTable hmem

/-- Settles O3: a legal word's opcode is in the table, which has each of the eleven opcodes once. -/
theorem commandLegal : Obligations.CommandLegal := by
  refine ⟨fun v => ?_, fun v i h => ?_, fun v w i j hv hw hopc => ?_⟩
  · simp only [decode_command_iff_mem, exists_and_left]
    exact and_congr_right fun _ => exists_mem_opcodeTable_iff _
  · exact List.mem_map_of_mem (f := Prod.snd) ((decode_command_iff_mem v i).mp h).2
  · have hi := ((decode_command_iff v i).mp hv).2
    have hj := ((decode_command_iff w j).mp hw).2
    rw [hopc, hj] at hi
    exact (Except.ok.inj hi).symm

/-! ### Transport bytes (R95, R96) -/

/-- A transport byte decodes exactly when its framing is valid, and to the symbol of its nibble. -/
theorem decode_transport_iff (b : Byte) (i : Instr) :
    decode (.transport b) = .ok i ↔ validSymbol b = true ∧ i = .symbol (nibbleOf b) := by
  rw [validSymbol_iff_decodes]
  cases h : decode (.transport b) with
  | error e => simp [Except.toOption]
  | ok j => simp [Except.toOption, decode_transport_cases h, eq_comm]

/-- The symbol of a nibble decodes to that nibble. -/
theorem decode_transport_symbolOf (n : BitVec 4) : decode (.transport (symbolOf n)) = .ok (.symbol n) := by
  rw [decode_transport_iff, nibbleOf_symbolOf]
  exact ⟨validSymbol_symbolOf n, rfl⟩

/-- A transport byte that decodes is the encoding of its symbol. -/
theorem encode_of_decode_transport {b : Byte} {i : Instr} (h : decode (.transport b) = .ok i) :
    encode i = .transport b ∧ i.WellFormed := by
  obtain ⟨hvalid, rfl⟩ := (decode_transport_iff b i).mp h
  exact ⟨congrArg PortWord.transport (symbolOf_nibbleOf b hvalid), rfl⟩

/-- The symbol of a nibble in R96's own words. -/
theorem symbolOf_eq_or_shift : ∀ n : BitVec 4, symbolOf n = 0x43 ||| (n.setWidth 8 <<< 2) := by decide

/-- Settles O5: the bytes that decode are the valid symbols. -/
theorem symbolCodes : Obligations.SymbolCodes := by
  refine ⟨?_, fun n => ?_⟩
  · simp only [← validSymbol_iff_decodes]
    decide +kernel
  · rw [← symbolOf_eq_or_shift]
    exact ⟨rfl, decode_transport_symbolOf n⟩

/-! ### Supply requests (R114) -/

/-- A request R114 gives no argument: it decodes only with 0, and is then its own encoding. -/
theorem encode_of_decodeNoArg {request : Word → Instr} {op : BitVec 4} {arg : Word} {i : Instr}
    (hencode : encode (request 0) = .supply op 0) (hwf : (request 0).WellFormed) (h : decodeNoArg (request arg) arg = .ok i) :
    encode i = .supply op arg ∧ i.WellFormed := by
  unfold decodeNoArg at h
  split at h
  · cases h; subst arg; exact ⟨hencode, hwf⟩
  · cases h

/-- A supply request that decodes is the encoding of its instruction, and carries 0 where R114 asks for it. -/
theorem encode_of_decode_supply {op : BitVec 4} {arg : Word} {i : Instr} (h : decode (.supply op arg) = .ok i) :
    encode i = .supply op arg ∧ i.WellFormed := by
  simp only [decode, decodeSupply] at h
  split_ifs at h <;> subst op
  · exact encode_of_decodeNoArg (request := .supIdentify) rfl rfl h
  · exact encode_of_decodeNoArg (request := .supReadOffset) rfl rfl h
  · exact encode_of_decodeNoArg (request := .supReadGain) rfl rfl h
  · cases h; exact ⟨rfl, rfl⟩
  · cases h; exact ⟨rfl, rfl⟩
  · cases h; exact ⟨rfl, rfl⟩
  · exact encode_of_decodeNoArg (request := .supReadTemp) rfl rfl h

/-! ### The two directions -/

/-- Settles O1: a command's word and a request's op are fixed by the constructor; a symbol's byte carries its nibble, and a request's argument is carried whole or is 0. -/
theorem decodeEncode : Obligations.DecodeEncode := by
  intro i hwf
  cases i with
  | symbol n => exact decode_transport_symbolOf n
  | supIdentify arg | supReadOffset arg | supReadGain arg | supReadTemp arg =>
    obtain rfl : arg = 0 := of_decide_eq_true hwf
    rfl
  | _ => rfl

/-- Settles O2: port by port. -/
theorem encodeDecode : Obligations.EncodeDecode := by
  intro p i h
  cases p with
  | command v => exact encode_of_decode_command h
  | transport b => exact encode_of_decode_transport h
  | supply op arg => exact encode_of_decode_supply h

/-- Settles O4: the accepted words are the encodings of their instructions; one refused word has a bit of `RSV`, the other no assigned opcode. -/
theorem decodedWords : Obligations.DecodedWords := by
  have hencoded : ∀ i : Instr, i.WellFormed → decode (encode i) = .ok i := decodeEncode
  exact ⟨hencoded .nop rfl, hencoded .acquire rfl, hencoded .decode rfl, hencoded .map rfl, hencoded .sample rfl,
    hencoded .calStart rfl, hencoded .calStopKeep rfl, hencoded .calStopAdjust rfl, hencoded .calAbort rfl, hencoded .clear rfl,
    hencoded .softReset rfl, hencoded (.symbol 0) rfl, hencoded (.symbol 0xA) rfl, hencoded (.supSetOutput 0xFFFFFF38) rfl,
    rfl, rfl⟩

end Sys2Proof.Proofs
end

section
/-! ## The received byte (spec/40_frame_reader.md rule R126) -/

namespace Sys2Proof.Proofs

open Sys2Proof.Machine Sys2Proof.Laws

/-- A symbol's instruction captures the symbol's byte. -/
theorem exec_symbol (n : BitVec 4) (s : State) : exec (.symbol n) s = .next (capture (symbolOf n) s) := rfl

/-- A received byte is captured, whether or not it is a valid symbol: a valid one is the symbol of its own nibble. -/
theorem receive_some (b : Byte) (s : State) : receive (some b) s = .next (capture b s) := by
  cases hd : decode (.transport b) with
  | error e => simp only [receive, hd]
  | ok i =>
    obtain ⟨hvalid, rfl⟩ := (decode_transport_iff b i).mp hd
    rw [receive_decoded s hd, exec_symbol, symbolOf_nibbleOf b hvalid]

/-- The acquisition waits at `pulse_end` and at `read_end` (R122, R123). -/
theorem acquiring_iff (s : State) : s.acquiring = true ↔ s.substep = .aPulse ∨ s.substep = .aRead := by
  simp [State.acquiring]

/-- A byte is discarded when 35 are held or no acquisition waits (R126). -/
theorem capture_discarded {s : State} (b : Byte) (h : 35 ≤ s.rxcnt.toNat ∨ ¬ (s.substep = .aPulse ∨ s.substep = .aRead)) :
    capture b s = s := by
  rcases h with hfull | hwait
  · exact capture_full b hfull
  · rw [← acquiring_iff, Bool.not_eq_true] at hwait
    exact capture_ignored b hwait

/-- Settles O15: both the received byte and the symbol's instruction come to `capture`. -/
theorem byteCapture : Obligations.ByteCapture := by
  intro s
  refine ⟨rfl, fun b => ⟨fun hlt hwait => ?_, fun hdrop => ?_⟩⟩
  · rw [receive_some, capture_kept b ((acquiring_iff s).mpr hwait) hlt]
    refine ⟨rfl, ?_⟩
    rintro n rfl
    rw [exec_symbol, capture_kept _ ((acquiring_iff s).mpr hwait) hlt]
  · rw [receive_some, capture_discarded b hdrop]
    refine ⟨rfl, ?_⟩
    rintro n rfl
    rw [exec_symbol, capture_discarded _ hdrop]

end Sys2Proof.Proofs
end

section
/-! ## The cell walk (spec/42_reading_mapper.md rules R152, R153) -/

namespace Sys2Proof.Proofs

open Sys2Proof.Machine Sys2Proof.Laws

/-! ### The glyph lookup -/

/-- The lookup fails exactly when no glyph has the pattern. -/
theorem lookupGlyph_eq_none_iff (b : BuildParams) (p : BitVec 7) :
    lookupGlyph b p = none ↔ ∀ g : Fin 15, b.segCodebook[g] ≠ p := by
  simp [lookupGlyph, List.find?_eq_none]

/-- The glyph found has the pattern. -/
theorem segCodebook_of_lookupGlyph {b : BuildParams} {p : BitVec 7} {g : Fin 15} (h : lookupGlyph b p = some g) :
    b.segCodebook[g] = p := by
  unfold lookupGlyph at h
  simpa using List.find?_some h

/-- A valid codebook has no pattern twice (R5). -/
theorem segCodebook_injective {b : BuildParams} (hb : b.valid = true) {g j : Fin 15}
    (h : b.segCodebook[g] = b.segCodebook[j]) : g = j := by
  have hnodup : b.segCodebook.toList.Nodup := of_decide_eq_true (Bool.and_eq_true_iff.mp hb).1
  exact Fin.ext ((hnodup.getElem_inj_iff (hi := by simp) (hj := by simp)).mp (by simpa using h))

/-- With a valid codebook the lookup is the one match. -/
theorem lookupGlyph_eq_some_iff {b : BuildParams} (hb : b.valid = true) (p : BitVec 7) (g : Fin 15) :
    lookupGlyph b p = some g ↔ b.segCodebook[g] = p := by
  refine ⟨segCodebook_of_lookupGlyph, fun hg => ?_⟩
  cases hl : lookupGlyph b p with
  | none => exact absurd hg ((lookupGlyph_eq_none_iff b p).mp hl g)
  | some j => rw [segCodebook_injective hb (hg.trans (segCodebook_of_lookupGlyph hl).symm)]

/-! ### The cells -/

/-- The text is the six cells' characters in order. -/
theorem displayText_eq_cells (b : BuildParams) (r : Record) :
    displayText b r = cellText b r 0 ++ cellText b r 1 ++ cellText b r 2 ++ cellText b r 3 ++ cellText b r 4 ++ cellText b r 5 := by
  simp [displayText, List.finRange_succ]

/-- Bit k of `RD_UNMAPPED` is cell k's. -/
theorem unmappedCells_getLsbD (b : BuildParams) (r : Record) (k : Fin 6) :
    (unmappedCells b r).getLsbD k.val = cellUnmapped b r k := by
  unfold unmappedCells
  iterate 5 rw [getLsbD_cat]
  fin_cases k <;> simp

/-- A cell is unmapped when it shows a pattern that is no glyph's. -/
theorem cellUnmapped_iff (b : BuildParams) (r : Record) (k : Fin 6) :
    cellUnmapped b r k = true ↔
      cellSeg b.digitFlagBit (cellByte r k) ≠ 0 ∧ lookupGlyph b (cellSeg b.digitFlagBit (cellByte r k)) = none := by
  simp [cellUnmapped]

/-- Cell k's characters (R152): the flag's, '-' in cell 0 and '.' elsewhere, and then the glyph's. -/
theorem cellText_eq (b : BuildParams) (r : Record) (k : Fin 6) :
    cellText b r k =
      (if cellFlag b.digitFlagBit (cellByte r k) then [if k = 0 then TextChar.minus else .point] else []) ++
      (if cellSeg b.digitFlagBit (cellByte r k) = 0 then []
        else match lookupGlyph b (cellSeg b.digitFlagBit (cellByte r k)) with | some g => [glyph g] | none => []) := by
  simp only [cellText, Fin.ext_iff]
  rfl

/-- Settles O44: the glyph tables are finite; the rest is said of the lookup and of one cell. -/
theorem cellWalk : Obligations.CellWalk := by
  refine ⟨by decide, fun b hb p g => lookupGlyph_eq_some_iff hb p g, lookupGlyph_eq_none_iff, fun b r =>
    ⟨displayText_eq_cells b r, fun k => ⟨cellText_eq b r k, ?_⟩⟩⟩
  show (unmappedCells b r).getLsbD k.val = true ↔ _
  rw [unmappedCells_getLsbD]
  exact cellUnmapped_iff b r k

end Sys2Proof.Proofs
end

section
/-! ## The phases of an acquisition (spec/40_frame_reader.md rules R120-R125, spec/43_host_commands.md rule R177) -/

namespace Sys2Proof.Proofs

open Sys2Proof.Machine Sys2Proof.Laws

/-! ### The read phase that ACQUIRE and SAMPLE share -/

/-- The read phase of a command (R123, R125), with what the command does of a complete frame left open. -/
def readPhase (onFrame : State → State) (tick : Bool) (s : State) : State :=
  match readTest (countTick tick s) with
  | .hold => countTick tick s
  | .frame => onFrame (countTick tick s)
  | .timeout => raiseError .transportTimeout s.rxcnt (countTick tick s)

/-- ACQUIRE stores the frame and completes (R120, R124). -/
theorem acquireRead_eq (tick : Bool) (s : State) :
    acquireRead tick s = readPhase (fun t => t.takeFrame.complete) tick s := by
  rw [readPhase, ← countTick_rxcnt tick s]
  rfl

/-- What SAMPLE does of a complete frame (R177): it is stored, decoded and mapped, or its first invalid symbol is reported. -/
def sampleFrame (b : BuildParams) (s : State) : State :=
  match sampleEnd b s.takeFrame with
  | (t, none) => t.complete
  | (t, some i) => raiseError .framingError (BitVec.ofNat 6 i.val) t

/-- SAMPLE's read phase ends in `sampleFrame` (R177). -/
theorem sampleRead_eq (b : BuildParams) (tick : Bool) (s : State) :
    sampleRead b tick s = readPhase (sampleFrame b) tick s := by
  rw [readPhase, ← countTick_rxcnt tick s]
  rfl

/-- With 35 bytes held the phase ends in the frame, whatever the timer is (R123). -/
theorem readPhase_frame {onFrame : State → State} {tick : Bool} {s : State} (hcnt : s.rxcnt = 35) :
    readPhase onFrame tick s = onFrame { s with tmr := s.ticked tick } := by
  simp only [readPhase, countTick_eq]
  rw [readTest_frame (by exact hcnt)]

/-- A command's read that times out reports the bytes it holds (R125). -/
theorem readPhase_timeout {onFrame : State → State} {tick : Bool} {s : State} (hr : s.calState.running = false)
    (hcnt : s.rxcnt ≠ 35) (ht : s.cfg.timeoutMs.toNat ≤ (s.ticked tick).toNat) :
    readPhase onFrame tick s = { s with
      tmr := s.ticked tick, errCode := .transportTimeout, errIndex := s.rxcnt
      op := .idle, substep := .none, done := true } := by
  simp only [readPhase, countTick_eq]
  rw [readTest_timeout (by exact hcnt) (by exact ht)]
  exact raiseError_notRunning _ _ hr

/-- Before the 35th byte and the timeout the phase holds (R123). -/
theorem readPhase_hold {onFrame : State → State} {tick : Bool} {s : State} (hcnt : s.rxcnt ≠ 35)
    (ht : (s.ticked tick).toNat < s.cfg.timeoutMs.toNat) :
    readPhase onFrame tick s = { s with tmr := s.ticked tick } := by
  simp only [readPhase, countTick_eq]
  rw [readTest_hold (by exact hcnt) (by exact ht)]

/-- No calibration runs while a command reads (R27). -/
theorem notRunning_of_read {s : State} (h : BlockInv s) (hop : s.op = .acqRead ∨ s.op = .smpRead) :
    s.calState.running = false := by
  have hpoint := h.point
  rcases hop with hop | hop <;>
  · rw [hop, legalPoint, Bool.and_eq_true, Bool.not_eq_true'] at hpoint
    exact hpoint.1

/-- Settles O22: ACQUIRE's step is the shared read phase. -/
theorem acquireReadPhase : Obligations.AcquireReadPhase := by
  intro b s inp h hop
  have hadv : advance b inp s = .next (readPhase (fun t => t.takeFrame.complete) inp.tick s) := by
    simp only [advance, hop, acquireRead_eq]
  rw [hadv]
  exact ⟨fun hcnt => advance_congr (readPhase_frame hcnt),
    fun hcnt ht => advance_congr (readPhase_timeout (notRunning_of_read h (.inl hop)) hcnt ht),
    fun hcnt ht => advance_congr (readPhase_hold hcnt ht)⟩

/-! ### SAMPLE's complete frame -/

/-- The first invalid symbol is the one with none before it (R136). -/
theorem firstInvalid_eq_some_iff (f : Frame) (i : Fin 35) :
    firstInvalid f = some i ↔ ¬ symbolOk f[i] ∧ ∀ j : Fin 35, j < i → symbolOk f[j] := by
  have hfind := List.find?_ofFn_eq_some_of_injective (p := fun k : Fin 35 => !validSymbol f[k]) (i := i)
    Function.injective_id
  rw [List.ofFn_id] at hfind
  simpa [firstInvalid, ← validSymbol_iff] using hfind

/-- A failed decode reports the lowest invalid index (R136, R145). -/
theorem decodeCore_eq_error_iff (f : Frame) (i : Fin 35) :
    decodeCore f = .error i ↔ ¬ symbolOk f[i] ∧ ∀ j : Fin 35, j < i → symbolOk f[j] := by
  rw [← firstInvalid_eq_some_iff, decodeCore]
  cases firstInvalid f <;> simp

/-- A frame that decodes is mapped in the same step, and the command completes (R177). -/
theorem sampleFrame_ok {b : BuildParams} {s : State} {r : Record} (hr : decodeCore s.rxbuf = .ok r) :
    sampleFrame b s = ((s.takeFrame.storeRecord r).storeReading (mapCore b r)).complete := by
  simp only [sampleFrame, sampleEnd, State.takeFrame_frame, hr]

/-- A frame that does not decode is stored, and the command ends in the framing error (R177). -/
theorem sampleFrame_error {b : BuildParams} {s : State} {i : Fin 35} (hi : decodeCore s.rxbuf = .error i) :
    sampleFrame b s = raiseError .framingError (BitVec.ofNat 6 i.val) s.takeFrame.dropRecord := by
  simp only [sampleFrame, sampleEnd, State.takeFrame_frame, hi]

/-- Settles O23: SAMPLE's step is the shared read phase, and a complete frame ends as its decode does. -/
theorem sampleReadPhase : Obligations.SampleReadPhase := by
  intro b s inp h hop
  have hrun := notRunning_of_read h (.inr hop)
  have hadv : advance b inp s = .next (readPhase (sampleFrame b) inp.tick s) := by
    simp only [advance, hop, sampleRead_eq]
  rw [hadv]
  refine ⟨fun hcnt hok => advance_congr ?_, fun i hcnt hbad hfirst => advance_congr ?_,
    fun hcnt ht => advance_congr (readPhase_timeout hrun hcnt ht),
    fun hcnt ht => advance_congr (readPhase_hold hcnt ht)⟩
  · exact (readPhase_frame hcnt).trans (sampleFrame_ok (decodeCore_ok hok))
  · have hi := (decodeCore_eq_error_iff s.rxbuf i).mpr ⟨hbad, hfirst⟩
    exact ((readPhase_frame hcnt).trans (sampleFrame_error hi)).trans (raiseError_notRunning _ _ hrun)

/-! ### The start -/

theorem exec_acquire (s : State) : exec .acquire s = .next (whenIdle s acquireCommand) := rfl

theorem exec_sample (s : State) : exec .sample s = .next (whenIdle s sampleCommand) := rfl

/-- The states MEAS_LOW and MEAS_HIGH are the two points' measuring states (R196, R198). -/
theorem exists_measState {c : CalState} (h : c = .measLow ∨ c = .measHigh) : ∃ p : Point, c = p.measState :=
  h.elim (fun hlow => ⟨.low, hlow⟩) (fun hhigh => ⟨.high, hhigh⟩)

/-- At `ENTRY` of a measuring state the batch starts (R196, R198, R199). -/
theorem advance_measEntry {b : BuildParams} {inp : StepInput} {s : State} {p : Point} (hop : s.op = .cal)
    (hc : s.calState = p.measState) (hs : s.substep = .entry) : advance b inp s = measureLoop p s.startBatch := by
  rw [advance_cal hop, calStep_meas hc]
  simp only [measStep, hs]

/-- CAL_START's first check keeps a batch of no samples from a run (R190). -/
theorem nSamples_pos_of_configCheck {c : Cfg} (h : configCheck c = none) : 0 < c.nSamples.toNat := by
  by_contra hzero
  have hfirst : c.nSamples.toNat = 0 := by omega
  simp [configCheck, hfirst] at h

/-- Settles O10: the two commands through `whenIdle`, the calibration's samples through `measureLoop_more`. -/
theorem acquisitionStart : Obligations.AcquisitionStart := by
  intro s
  refine ⟨fun hidle => ?_, fun hidle => ?_, fun hbusy => ⟨?_, ?_⟩, fun p hop hn => if_pos hn, fun b inp h hop hc hs => ?_⟩
  · rw [exec_acquire, whenIdle_idle _ hidle]
    rfl
  · rw [exec_sample, whenIdle_idle _ hidle]
    rfl
  · rw [exec_acquire, whenIdle_busy _ hbusy]
    rfl
  · rw [exec_sample, whenIdle_busy _ hbusy]
    rfl
  · obtain ⟨p, hp⟩ := exists_measState hc
    rw [advance_measEntry hop hp hs]
    exact measureLoop_more hop (nSamples_pos_of_configCheck (h.config hop))

/-! ### The pulse -/

/-- The pulse ends once its ticks are counted (R122). -/
theorem pulsePhase_end {label : Op} {tick : Bool} {s : State} (ht : s.cfg.pulseMs.toNat ≤ (s.ticked tick).toNat) :
    pulsePhase label tick s = { s with txEn := false, tmr := 0, op := label, substep := .aRead } := by
  simp only [pulsePhase, countTick_eq]
  exact if_pos ht

/-- Until then the tick is counted and nothing else changes (R122). -/
theorem pulsePhase_hold {label : Op} {tick : Bool} {s : State} (ht : (s.ticked tick).toNat < s.cfg.pulseMs.toNat) :
    pulsePhase label tick s = { s with tmr := s.ticked tick } := by
  simp only [pulsePhase, countTick_eq]
  exact if_neg (Nat.not_le.mpr ht)

/-- At `A_PULSE` of a measuring state the step is the pulse phase (R122). -/
theorem advance_measPulse {b : BuildParams} {inp : StepInput} {s : State} {p : Point} (hop : s.op = .cal)
    (hc : s.calState = p.measState) (hs : s.substep = .aPulse) :
    advance b inp s = .next (pulsePhase .cal inp.tick s) := by
  rw [advance_cal hop, calStep_meas hc]
  simp only [measStep, hs]

/-- Settles O21: the three users run one pulse phase. (Protected, so that `pulsePhase` stays the model's function.) -/
protected theorem pulsePhase : Obligations.PulsePhase := by
  intro b s inp read huser
  have hadv : advance b inp s = .next (pulsePhase read inp.tick s) := by
    rcases huser with ⟨hop, rfl⟩ | ⟨hop, rfl⟩ | ⟨hop, hc, hs, rfl⟩
    · simp only [advance, hop]
    · simp only [advance, hop]
    · obtain ⟨p, hp⟩ := exists_measState hc
      exact advance_measPulse hop hp hs
  rw [hadv]
  exact ⟨fun ht => advance_congr (pulsePhase_end ht), fun ht => advance_congr (pulsePhase_hold ht)⟩

end Sys2Proof.Proofs
end

section
/-! ## The frame decoder (spec/41_frame_decoder.md rules R135-R138, R145-R147) -/

namespace Sys2Proof.Proofs

open Sys2Proof.Machine Sys2Proof.Laws

/-! ### When a frame decodes -/

/-- No symbol is invalid exactly when every one is valid (R136). -/
theorem firstInvalid_eq_none_iff (f : Frame) : firstInvalid f = none ↔ ∀ i : Fin 35, symbolOk f[i] := by
  simp [firstInvalid, List.find?_eq_none, ← validSymbol_iff]

/-- A frame decodes exactly when its framing is right, and to the Record its nibbles pack to (R136, R145). -/
theorem decodeCore_eq_ok_iff (f : Frame) (r : Record) :
    decodeCore f = .ok r ↔ (∀ i : Fin 35, symbolOk f[i]) ∧ unpackRecord f = r := by
  rw [← firstInvalid_eq_none_iff, decodeCore]
  cases firstInvalid f <;> simp

/-- Settles O39: the two outcomes of `decodeCore`, each with its condition. -/
theorem framingLaw : Obligations.FramingLaw := by
  intro f
  refine ⟨⟨?_, fun hvalid => ?_⟩, decodeCore_eq_error_iff f⟩
  · rintro ⟨r, hr⟩
    exact ((decodeCore_eq_ok_iff f r).mp hr).1
  · exact ⟨_, decodeCore_ok hvalid⟩

/-! ### DECODE -/

theorem exec_decode (s : State) : exec .decode s = .next (whenIdle s decodeFrame) := rfl

/-- A frame that decodes is stored as the Record, and the command completes (R135). -/
theorem decodeFrame_ok {s : State} {r : Record} (hr : decodeCore s.frame = .ok r) :
    decodeFrame s = (s.storeRecord r).setDone := by
  simp only [decodeFrame, hr]

/-- A frame that does not decode leaves no valid Record, and its first invalid index is raised (R135). -/
theorem decodeFrame_error {s : State} {i : Fin 35} (hi : decodeCore s.frame = .error i) :
    decodeFrame s = raiseError .framingError (BitVec.ofNat 6 i.val) s.dropRecord := by
  simp only [decodeFrame, hi]

/-- Settles O11: the two outcomes of `decodeCore` on the cleared state. The invariant has `CAL_STATE` not running and
`SUBSTEP` none while idle, so that `raise` changes neither (R243). -/
theorem decodeEffect : Obligations.DecodeEffect := by
  refine ⟨rfl, fun s h => ⟨fun hidle hok => ?_, fun i hidle hbad hfirst => ?_, fun hbusy => ?_⟩⟩
  · rw [exec_decode, whenIdle_idle _ hidle, decodeFrame_ok (s := clearErr s) (decodeCore_ok hok)]
    rfl
  · have hi : decodeCore (clearErr s).frame = .error i := (decodeCore_eq_error_iff s.frame i).mpr ⟨hbad, hfirst⟩
    obtain ⟨hrun, hsub, -⟩ := blockInv_idle h hidle
    rw [exec_decode, whenIdle_idle _ hidle, decodeFrame_error hi, raiseError_notRunning _ _ (by exact hrun), ← hidle, ← hsub]
    rfl
  · rw [exec_decode, whenIdle_busy _ hbusy]
    rfl

/-! ### The frame of 34 nibbles (R146) -/

/-- Symbol 0 carries the sync nibble. -/
theorem encodeNibbles_zero (n0 : BitVec 4) (nib : Fin 34 → BitVec 4) : (encodeNibbles n0 nib)[0] = symbolOf n0 := by
  simp [encodeNibbles]

/-- Symbol j + 1 carries nibble j. -/
theorem encodeNibbles_succ (n0 : BitVec 4) (nib : Fin 34 → BitVec 4) (j : Fin 34) :
    (encodeNibbles n0 nib)[j.val + 1] = symbolOf (nib j) := by
  simp [encodeNibbles]

/-- A frame is equal to another when symbol 0 and the 34 payload symbols are. -/
theorem frame_ext {f g : Frame} (hsync : f[0] = g[0]) (hpayload : ∀ j : Fin 34, f[j.val + 1] = g[j.val + 1]) : f = g := by
  refine Vector.ext fun i hi => ?_
  cases i with
  | zero => exact hsync
  | succ j => exact hpayload ⟨j, by omega⟩

/-- Every symbol of an encoded frame is valid (R96). -/
theorem symbolOk_encodeNibbles (n0 : BitVec 4) (nib : Fin 34 → BitVec 4) (i : Fin 35) :
    symbolOk (encodeNibbles n0 nib)[i] := by
  rw [← validSymbol_iff]
  cases i using Fin.cases with
  | zero => exact (congrArg validSymbol (encodeNibbles_zero n0 nib)).trans (validSymbol_symbolOf n0)
  | succ j => exact (congrArg validSymbol (encodeNibbles_succ n0 nib j)).trans (validSymbol_symbolOf (nib j))

/-- An encoded frame decodes (R145). -/
theorem decodeCore_encodeNibbles (n0 : BitVec 4) (nib : Fin 34 → BitVec 4) :
    decodeCore (encodeNibbles n0 nib) = .ok (unpackRecord (encodeNibbles n0 nib)) :=
  (decodeCore_eq_ok_iff _ _).mpr ⟨symbolOk_encodeNibbles n0 nib, rfl⟩

/-- Record byte i of an encoded frame is nibbles 2i and 2i + 1. -/
theorem packByte_encodeNibbles (n0 : BitVec 4) (nib : Fin 34 → BitVec 4) (i : Fin 17) :
    packByte (encodeNibbles n0 nib) i = nib ⟨2 * i.val, by omega⟩ ++ nib ⟨2 * i.val + 1, by omega⟩ := by
  have hhigh := encodeNibbles_succ n0 nib ⟨2 * i.val, by omega⟩
  have hlow := encodeNibbles_succ n0 nib ⟨2 * i.val + 1, by omega⟩
  rw [packByte, hhigh, hlow, nibbleOf_symbolOf, nibbleOf_symbolOf]

/-! ### Records and their nibbles (R137, R138, R147) -/

/-- Byte i of an unpacked Record: byte 0 is inverted, the others are as packed (R137, R138). -/
theorem unpackRecord_getElem (f : Frame) (i : Fin 17) :
    (unpackRecord f)[i] = if i.val = 0 then ~~~(packByte f i) else packByte f i := by
  simp [unpackRecord]

/-- Inverting byte 0 twice gives it back: the transmitted bytes of an unpacked Record are the packed ones (R138). -/
theorem transmitted_unpackRecord (f : Frame) (i : Fin 17) : transmitted (unpackRecord f) i = packByte f i := by
  rw [transmitted, unpackRecord_getElem]
  split <;> simp

/-- A Record is unpacked from its transmitted bytes (R138). -/
theorem unpackRecord_eq_of_transmitted {f : Frame} {r : Record} (h : ∀ i : Fin 17, packByte f i = transmitted r i) :
    unpackRecord f = r := by
  refine Vector.ext fun i hi => (unpackRecord_getElem f ⟨i, hi⟩).trans ?_
  rw [h, transmitted]
  split <;> simp

/-- A byte is its high nibble and its low nibble. -/
theorem append_nibbles (b : Byte) : b.extractLsb' 4 4 ++ b.extractLsb' 0 4 = b := by
  rw [BitVec.extractLsb'_append_extractLsb'_eq_extractLsb' (by omega)]
  simp

/-- The even payload nibbles of a Record are the high nibbles of its transmitted bytes. -/
theorem recordNibble_even (r : Record) (i : Fin 17) :
    recordNibble r ⟨2 * i.val, by omega⟩ = (transmitted r i).extractLsb' 4 4 := by
  simp [recordNibble]

/-- The odd payload nibbles of a Record are the low nibbles of its transmitted bytes. -/
theorem recordNibble_odd (r : Record) (i : Fin 17) :
    recordNibble r ⟨2 * i.val + 1, by omega⟩ = (transmitted r i).extractLsb' 0 4 := by
  have hdiv : (2 * i.val + 1) / 2 = i.val := by omega
  simp [recordNibble, hdiv]

/-- Every payload index is 2i or 2i + 1 for a Record byte i. -/
theorem payload_cases (j : Fin 34) :
    ∃ i : Fin 17, j = ⟨2 * i.val, by omega⟩ ∨ j = ⟨2 * i.val + 1, by omega⟩ := by
  refine ⟨⟨j.val / 2, by omega⟩, ?_⟩
  simp only [Fin.ext_iff]
  omega

/-- Payload nibble j of an unpacked Record is the nibble of symbol j + 1: unpacking loses no payload nibble. -/
theorem recordNibble_unpackRecord (f : Frame) (j : Fin 34) : recordNibble (unpackRecord f) j = nibbleOf f[j.val + 1] := by
  obtain ⟨i, rfl | rfl⟩ := payload_cases j
  · rw [recordNibble_even, transmitted_unpackRecord, packByte, BitVec.extractLsb'_append_eq_left]
  · rw [recordNibble_odd, transmitted_unpackRecord, packByte, BitVec.extractLsb'_append_eq_right]

/-- Unpacking the frame of a Record gives the Record back (R147). -/
theorem unpackRecord_encodeRecord (n0 : BitVec 4) (r : Record) : unpackRecord (encodeRecord n0 r) = r := by
  refine unpackRecord_eq_of_transmitted fun i => ?_
  rw [encodeRecord, packByte_encodeNibbles, recordNibble_even, recordNibble_odd, append_nibbles]

/-- A frame of valid symbols is the frame of its Record with its own sync nibble (R147). -/
theorem encodeRecord_unpackRecord {f : Frame} (hvalid : ∀ i : Fin 35, symbolOk f[i]) :
    encodeRecord (nibbleOf f[0]) (unpackRecord f) = f := by
  have hsymbol (i : Fin 35) : symbolOf (nibbleOf f[i]) = f[i] := symbolOf_nibbleOf f[i] ((validSymbol_iff _).mpr (hvalid i))
  refine frame_ext ?_ fun j => ?_
  · exact (encodeNibbles_zero _ _).trans (hsymbol 0)
  · rw [encodeRecord, encodeNibbles_succ, recordNibble_unpackRecord]
    exact hsymbol j.succ

/-- The frame of a Record decodes to it, whatever the sync nibble (R147). -/
theorem decodeCore_encodeRecord (n0 : BitVec 4) (r : Record) : decodeCore (encodeRecord n0 r) = .ok r :=
  (decodeCore_eq_ok_iff _ _).mpr ⟨symbolOk_encodeNibbles n0 _, unpackRecord_encodeRecord n0 r⟩

/-- The frames that decode to a Record are its encodings (R147). -/
theorem decodeCore_eq_ok_iff_encodeRecord (f : Frame) (r : Record) :
    decodeCore f = .ok r ↔ ∃ n0, f = encodeRecord n0 r := by
  constructor
  · intro hr
    obtain ⟨hvalid, rfl⟩ := (decodeCore_eq_ok_iff f r).mp hr
    exact ⟨_, (encodeRecord_unpackRecord hvalid).symm⟩
  · rintro ⟨n0, rfl⟩
    exact decodeCore_encodeRecord n0 r

/-- Different sync nibbles give different frames. -/
theorem encodeRecord_sync_injective {m n : BitVec 4} {r : Record} (h : encodeRecord m r = encodeRecord n r) : m = n := by
  have hsymbol : symbolOf m = symbolOf n := by
    rw [← encodeNibbles_zero m (recordNibble r), ← encodeNibbles_zero n (recordNibble r)]
    exact congrArg (fun f : Frame => f[0]) h
  simpa only [nibbleOf_symbolOf] using congrArg nibbleOf hsymbol

/-! ### The encoders in the rules' own shifts -/

/-- The symbol of the four bits of a byte from bit k up. -/
theorem symbolOf_extract (b : Byte) (k : Nat) : symbolOf (b.extractLsb' k 4) = 0x43 ||| (((b >>> k) &&& 0xF) <<< 2) := by
  have hnibble : (b.extractLsb' k 4).setWidth 8 = (b >>> k) &&& 0xF := by
    apply BitVec.eq_of_getLsbD_eq
    intro i hi
    interval_cases i <;> simp [-BitVec.getLsbD_eq_getElem]
  rw [symbolOf_eq_or_shift, hnibble]

/-- The two symbols of Record byte i (R147). -/
theorem encodeRecord_byte (n0 : BitVec 4) (r : Record) (i : Fin 17) :
    (encodeRecord n0 r)[2 * i.val + 1] = 0x43 ||| (((transmitted r i >>> 4) &&& 0xF) <<< 2) ∧
    (encodeRecord n0 r)[2 * i.val + 2] = 0x43 ||| ((transmitted r i &&& 0xF) <<< 2) := by
  have hhigh := encodeNibbles_succ n0 (recordNibble r) ⟨2 * i.val, by omega⟩
  have hlow := encodeNibbles_succ n0 (recordNibble r) ⟨2 * i.val + 1, by omega⟩
  rw [recordNibble_even, symbolOf_extract] at hhigh
  rw [recordNibble_odd, symbolOf_extract, BitVec.ushiftRight_zero] at hlow
  exact ⟨hhigh, hlow⟩

/-- Only byte 0 is transmitted inverted (R138). -/
theorem transmitted_of_pos (r : Record) {i : Fin 17} (hi : 1 ≤ i.val) : transmitted r i = r[i] :=
  if_neg (by omega)

/-- A byte after byte 0 is unpacked as it is packed (R137). -/
theorem unpackRecord_of_pos (f : Frame) {i : Fin 17} (hi : 1 ≤ i.val) : (unpackRecord f)[i] = packByte f i :=
  (unpackRecord_getElem f i).trans (if_neg (by omega))

/-- Byte 0 is unpacked inverted (R138). -/
theorem unpackRecord_zero (f : Frame) : (unpackRecord f)[0] = ~~~(packByte f 0) :=
  unpackRecord_getElem f 0

/-- Settles O40: the encoder's symbols, the two ways round between frames and Records, and the sync nibble read back. -/
theorem recordRoundTrip : Obligations.RecordRoundTrip := by
  refine ⟨fun n0 r => ?_, fun n0 nib => ?_, decodeCore_eq_ok_iff_encodeRecord, fun m n r h => encodeRecord_sync_injective h⟩
  · have hsync : (encodeRecord n0 r)[0] = 0x43 ||| (n0.setWidth 8 <<< 2) :=
      (encodeNibbles_zero n0 _).trans (symbolOf_eq_or_shift n0)
    obtain ⟨hhigh, hlow⟩ := encodeRecord_byte n0 r 0
    refine ⟨decodeCore_encodeRecord n0 r, hsync, hhigh, hlow, fun i hi => ?_⟩
    rw [← transmitted_of_pos r hi]
    exact encodeRecord_byte n0 r i
  · have hpayload (j : Fin 34) : (encodeNibbles n0 nib)[j.val + 1] = symbolOf (nib j) := encodeNibbles_succ n0 nib j
    refine ⟨(encodeNibbles_zero n0 nib).trans (symbolOf_eq_or_shift n0),
      fun j => (hpayload j).trans (symbolOf_eq_or_shift (nib j)), _, decodeCore_encodeNibbles n0 nib, ?_, fun i hi => ?_,
      fun j => ?_⟩
    · rw [unpackRecord_zero, packByte_encodeNibbles]
      rfl
    · rw [unpackRecord_of_pos _ hi, packByte_encodeNibbles]
    · rw [recordNibble_unpackRecord, hpayload, nibbleOf_symbolOf]

end Sys2Proof.Proofs
end

section
/-! ## The views of the Record as read (spec/41_frame_decoder.md rules R139-R142) -/

namespace Sys2Proof.Proofs

open Sys2Proof.Machine Sys2Proof.Laws

/-! ### The words' bits -/

/-- The fields of `DS_FLAGS` (R139). -/
theorem dsFlagsWord_fields (r : Record) :
    let w := dsFlagsWord r
    (∀ i : Nat, i < 8 → w.getLsbD i = r[1].getLsbD i) ∧
    w.getLsbD 8 = flagAuto r ∧ w.getLsbD 9 = flagHold r ∧ w.getLsbD 10 = flagDc r ∧ w.getLsbD 11 = flagAc r ∧
    w.getLsbD 12 = flagNano r ∧ w.getLsbD 13 = flagBeep r ∧ w.getLsbD 14 = flagMin r ∧ w.getLsbD 15 = flagMax r ∧
    w.getLsbD 16 = flagPeakToPeak r ∧ w.getLsbD 17 = flagDelta r ∧ w.getLsbD 18 = flagPercent r ∧
    w.extractLsb' 19 13 = 0 := by
  intro w
  refine ⟨fun i hi => ?_, ?_, ?_, ?_, ?_, ?_, ?_, ?_, ?_, ?_, ?_, ?_, extractLsb'_eq_of_bits fun i hi => ?_⟩
  · exact (dsFlagsWord_getLsbD r i).trans (if_pos hi)
  iterate 11 simp [w, dsFlagsWord_getLsbD, -BitVec.getLsbD_eq_getElem]
  · rw [dsFlagsWord_getLsbD]
    interval_cases i <;> rfl

/-- The bits of `DS_CELL[k]` (R140), from bit 0 up. -/
theorem dsCellWord_getLsbD (f : DigitFlagBit) (r : Record) (k : Fin 6) (i : Nat) : (dsCellWord f r k).getLsbD i =
    if i < 7 then (cellSeg f (cellByte r k)).getLsbD i
    else if i - 7 < 1 then (0#1).getLsbD (i - 7)
    else if i - 7 - 1 < 1 then (BitVec.ofBool (cellFlag f (cellByte r k))).getLsbD (i - 7 - 1)
    else if i - 7 - 1 - 1 < 7 then (0#7).getLsbD (i - 7 - 1 - 1)
    else if i - 7 - 1 - 1 - 7 < 8 then (cellByte r k).getLsbD (i - 7 - 1 - 1 - 7)
    else (0#8).getLsbD (i - 7 - 1 - 1 - 7 - 8) := by
  unfold dsCellWord
  iterate 5 rw [getLsbD_cat]

/-- The fields of `DS_CELL[k]` (R140). -/
theorem dsCellWord_fields (f : DigitFlagBit) (r : Record) (k : Fin 6) :
    let w := dsCellWord f r k
    w.extractLsb' 16 8 = cellByte r k ∧ w.extractLsb' 24 8 = 0 ∧ w.extractLsb' 9 7 = 0 ∧ w.getLsbD 7 = false ∧
    w.getLsbD 8 = cellFlag f (cellByte r k) ∧ w.extractLsb' 0 7 = cellSeg f (cellByte r k) := by
  refine ⟨extractLsb'_eq_of_bits ?_, extractLsb'_eq_of_bits ?_, extractLsb'_eq_of_bits ?_, ?_, ?_,
    extractLsb'_eq_of_bits ?_⟩
  case refine_4 | refine_5 => simp [dsCellWord_getLsbD, -BitVec.getLsbD_eq_getElem]
  all_goals
    intro i hi
    rw [dsCellWord_getLsbD]
    interval_cases i <;> rfl

/-- The bits of `DS_BAR_LO` are segments 0 to 31 (R141). -/
theorem dsBarLoWord_getLsbD (r : Record) {n : Nat} (hn : n < 32) : (dsBarLoWord r).getLsbD n = barSegment r n := by
  rw [dsBarLoWord, bitsWord_getLsbD _ 32 (by omega)]
  simp [hn]

/-- The bits of `DS_BAR_HI` are segments 32 to 49, and 0 above (R141). -/
theorem dsBarHiWord_getLsbD (r : Record) (i : Nat) :
    (dsBarHiWord r).getLsbD i = (decide (i < 18) && barSegment r (32 + i)) :=
  bitsWord_getLsbD _ 18 (by omega) i

/-- Segment n, for n = 0 to 49, stands in the bargraph word for its 32 (R141). -/
theorem barSegment_eq_bit (r : Record) {n : Nat} (hn : n < 50) :
    (if n < 32 then (dsBarLoWord r).getLsbD n else (dsBarHiWord r).getLsbD (n - 32)) = barSegment r n := by
  split
  next hlo => exact dsBarLoWord_getLsbD r hlo
  next hhi =>
    have hsum : 32 + (n - 32) = n := by omega
    have hlt : n - 32 < 18 := by omega
    rw [dsBarHiWord_getLsbD, hsum]
    simp [hlt]

/-- Segments 6 to 45 are the bits of Record bytes 10 to 14 in order (R141). -/
theorem barSegment_middle (r : Record) (k : Fin 5) {j : Nat} (hj : j < 8) :
    barSegment r (6 + 8 * k.val + j) = r[10 + k.val].getLsbD j := by
  have hbyte : (6 + 8 * k.val + j - 6) / 8 = k.val := by omega
  have hbit : (6 + 8 * k.val + j - 6) % 8 = j := by omega
  rw [barSegment, if_neg (by omega), if_pos (by omega), hbyte, hbit, Vector.getElem?_eq_getElem (by omega)]
  rfl

/-- The four ranges of bargraph segments (R141). -/
theorem barSegment_ranges (r : Record) (n : Nat) :
    (n < 6 → barSegment r n = r[9].getLsbD n) ∧
    (∀ k : Fin 5, ∀ j : Nat, j < 8 → n = 6 + 8 * k.val + j → barSegment r n = r[10 + k.val].getLsbD j) ∧
    (46 ≤ n → n < 49 → barSegment r n = r[15].getLsbD (n - 41)) ∧
    (n = 49 → barSegment r n = r[16].getLsbD 0) := by
  refine ⟨fun hn => if_pos hn, fun k j hj hn => ?_, fun hlo hhi => ?_, fun hn => ?_⟩
  · rw [hn, barSegment_middle r k hj]
  · rw [barSegment, if_neg (by omega), if_neg (by omega), if_pos hhi]
  · rw [hn]
    rfl

/-! ### The reads -/

/-- `DS_CELL[k]`'s place in the map (R46). -/
theorem dsCell_mem_regMap (k : Fin 6) : (0x288 + 4 * k.val, Reg.dsCell k) ∈ regMap :=
  List.mem_flatten.mpr ⟨regMapDsCells, by simp, List.mem_ofFn.mpr ⟨k, rfl⟩⟩

/-- `DS_CELL[k]` reads at its offset. -/
theorem memRead_dsCell (b : BuildParams) (s : State) (k : Fin 6) :
    memRead b s (0x288 + 4 * BitVec.ofNat 12 k.val) = dsCellWord b.digitFlagBit s.record k := by
  have hoff : ∀ k : Fin 6, ((0x288 + 4 * BitVec.ofNat 12 k.val : BitVec 12) &&& 0xFFC).toNat = 0x288 + 4 * k.val := by decide
  exact memRead_of_mem (hoff k) (dsCell_mem_regMap k)

/-- Settles O47: each word's fields at its register's offset. -/
theorem displayViews : Obligations.DisplayViews := by
  intro b s
  have hflags : memRead b s 0x280 = dsFlagsWord s.record := memRead_of_mem (r := .dsFlags) rfl (by decide)
  have hswpos : memRead b s 0x284 = s.record[0].setWidth 32 := memRead_of_mem (r := .dsSwpos) rfl (by decide)
  have hbarLo : memRead b s 0x2A0 = dsBarLoWord s.record := memRead_of_mem (r := .dsBarLo) rfl (by decide)
  have hbarHi : memRead b s 0x2A4 = dsBarHiWord s.record := memRead_of_mem (r := .dsBarHi) rfl (by decide)
  rw [hflags, hswpos, hbarLo, hbarHi]
  obtain ⟨hlow, hauto, hhold, hdc, hac, hnano, hbeep, hmin, hmax, hpeak, hdelta, hpercent, hzero⟩ := dsFlagsWord_fields s.record
  refine ⟨hlow, hauto, hhold, hdc, hac, hnano, hbeep, hmin, hmax, hpeak, hdelta, hpercent, hzero, rfl, fun k => ?_,
    fun n hn => ?_, extractLsb'_eq_of_bits fun i _ => ?_⟩
  · rw [memRead_dsCell]
    obtain ⟨hraw, hhigh, hmid, hseven, hflag, hseg⟩ := dsCellWord_fields b.digitFlagBit s.record k
    refine ⟨hraw, hhigh, hmid, hseven, fun hbit => ?_, fun hbit => ?_⟩ <;>
    · rw [hflag, hseg, hbit]
      exact ⟨rfl, rfl⟩
  · rw [barSegment_eq_bit s.record hn]
    exact barSegment_ranges s.record n
  · rw [dsBarHiWord_getLsbD]
    simp

end Sys2Proof.Proofs
end

section
/-! ## The mapper's parse, inputs and labels (spec/42_reading_mapper.md rules R151, R154-R157, R159, R160, R162) -/

namespace Sys2Proof.Proofs

open Sys2Proof.Machine Sys2Proof.Laws

/-! ### The longest numeral at the front of a text (R154) -/

/-- A numeral's sign as text. -/
def signText (neg : Bool) : List TextChar := if neg then [.minus] else []

/-- A numeral's point with the digits after it as text; nothing where there is no point. -/
def pointText (point : Bool) (fraction : List (Fin 10)) : List TextChar :=
  if point then .point :: fraction.map .digit else []

/-- The pattern of R154: a sign, digits, and a point with its digits. -/
theorem isNumeral_iff (text : List TextChar) (neg : Bool) (whole fraction : List (Fin 10)) (point : Bool) :
    IsNumeral text neg whole fraction point ↔
      text = signText neg ++ (whole.map .digit ++ pointText point fraction) ∧ (point = false → fraction = []) := by
  rw [← List.append_assoc]
  rfl

/-- Does a text begin with the decimal point? -/
def startsWithPoint : List TextChar → Bool
  | .point :: _ => true
  | _ => false

/-- Without a point at the front there are no fraction digits. -/
theorem takeFraction_of_noPoint {text : List TextChar} (h : startsWithPoint text = false) : takeFraction text = [] := by
  unfold takeFraction
  split
  · cases h
  · rfl

/-- The sign taken from a text and what follows it are the text. -/
theorem takeSign_append (text : List TextChar) : signText (takeSign text).1 ++ (takeSign text).2 = text := by
  unfold takeSign
  split <;> rfl

/-- The digits taken from a text are at its front. -/
theorem takeDigits_prefix (text : List TextChar) : (takeDigits text).1.map .digit <+: text :=
  ⟨_, takeDigits_append text⟩

/-- `takeDigits` is greedy: no longer row of digits is at the front. -/
theorem takeDigits_longest {ds : List (Fin 10)} {text : List TextChar} (h : ds.map .digit <+: text) :
    ds.length ≤ (takeDigits text).1.length := by
  induction ds generalizing text with
  | nil => exact Nat.zero_le _
  | cons d ds ih =>
    obtain ⟨rest, rfl⟩ := h
    exact Nat.succ_le_succ (ih (List.prefix_append _ rest))

/-- The point at the front of a text, if it is one, with the digits after it. -/
def pointFront (text : List TextChar) : List TextChar := pointText (startsWithPoint text) (takeFraction text)

theorem pointFront_prefix (text : List TextChar) : pointFront text <+: text := by
  unfold pointFront startsWithPoint takeFraction
  split
  · exact (List.prefix_cons_inj _).mpr (takeDigits_prefix _)
  · exact List.nil_prefix

/-- No longer point with digits is at the front. -/
theorem pointFront_longest {point : Bool} {fraction : List (Fin 10)} {text : List TextChar}
    (h : pointText point fraction <+: text) : (pointText point fraction).length ≤ (pointFront text).length := by
  cases point with
  | false => exact Nat.zero_le _
  | true =>
    obtain ⟨rest, rfl⟩ := h
    have hdigits := takeDigits_longest (List.prefix_append (fraction.map TextChar.digit) rest)
    simpa [pointFront, pointText, startsWithPoint, takeFraction] using hdigits

/-- The digits at the front of a text, and the point after them with its own digits. -/
def unsignedFront (text : List TextChar) : List TextChar :=
  (takeDigits text).1.map .digit ++ pointFront (takeDigits text).2

theorem unsignedFront_prefix (text : List TextChar) : unsignedFront text <+: text := by
  conv_rhs => rw [← takeDigits_append text]
  exact (List.prefix_append_right_inj _).mpr (pointFront_prefix _)

/-- No longer numeral without a sign is at the front: each of its digits is taken in turn, and then its point is what
follows. -/
theorem unsignedFront_longest {whole fraction : List (Fin 10)} {point : Bool} {text : List TextChar}
    (h : whole.map .digit ++ pointText point fraction <+: text) :
    (whole.map TextChar.digit ++ pointText point fraction).length ≤ (unsignedFront text).length := by
  induction whole generalizing text with
  | nil =>
    cases point with
    | false => exact Nat.zero_le _
    | true =>
      obtain ⟨rest, rfl⟩ := h
      exact pointFront_longest (List.prefix_append (pointText true fraction) rest)
  | cons d whole ih =>
    obtain ⟨rest, rfl⟩ := h
    exact Nat.succ_le_succ (ih (List.prefix_append _ rest))

/-- The front of a text that the parse reads. -/
def numeralFront (text : List TextChar) : List TextChar :=
  signText (takeSign text).1 ++ unsignedFront (takeSign text).2

theorem numeralFront_prefix (text : List TextChar) : numeralFront text <+: text := by
  conv_rhs => rw [← takeSign_append text]
  exact (List.prefix_append_right_inj _).mpr (unsignedFront_prefix _)

/-- The front is a numeral, made of what the parse takes. -/
theorem isNumeral_numeralFront (text : List TextChar) :
    let signed := takeSign text
    let digits := takeDigits signed.2
    IsNumeral (numeralFront text) signed.1 digits.1 (takeFraction digits.2) (startsWithPoint digits.2) :=
  (isNumeral_iff _ _ _ _ _).mpr ⟨rfl, takeFraction_of_noPoint⟩

/-- No longer numeral is at the front. Where the text begins with '-', a numeral without the sign is empty. -/
theorem numeralFront_longest {text longer : List TextChar} {neg : Bool} {whole fraction : List (Fin 10)} {point : Bool}
    (hprefix : longer <+: text) (hnum : IsNumeral longer neg whole fraction point) :
    longer.length ≤ (numeralFront text).length := by
  obtain ⟨rfl, -⟩ := (isNumeral_iff _ _ _ _ _).mp hnum
  cases neg with
  | true =>
    obtain ⟨rest, rfl⟩ := hprefix
    exact Nat.succ_le_succ (unsignedFront_longest (List.prefix_append _ rest))
  | false =>
    have hle := unsignedFront_longest (text := text) hprefix
    unfold numeralFront takeSign
    split
    · exact hle.trans (Nat.zero_le _)
    · exact hle

/-- `digitsValue` in the form of the rule. -/
theorem digitsValue_eq (ds : List (Fin 10)) : digitsValue ds = (ds.map Fin.val).foldl (fun a d => 10 * a + d) 0 :=
  List.foldl_map.symm

/-- Settles O41: the parse reads `numeralFront`. -/
theorem parseLongest : Obligations.ParseLongest := by
  intro text
  obtain ⟨rest, hrest⟩ := numeralFront_prefix text
  refine ⟨_, rest, _, _, _, _, hrest.symm, isNumeral_numeralFront text,
    fun longer n w f p hprefix hnum => numeralFront_longest hprefix hnum, ?_⟩
  rw [← digitsValue_eq]
  rfl

/-! ### The Record bits the mapper reads (R162) -/

/-- Two Records agree on the bits the mapper reads. -/
def AgreeOnMapped (r q : Record) : Prop := ∀ i : Fin 17, r[i] &&& mapperMask[i] = q[i] &&& mapperMask[i]

/-- They agree on each bit whose mask bit is set. -/
theorem AgreeOnMapped.bit {r q : Record} (h : AgreeOnMapped r q) (i : Fin 17) (j : Nat)
    (hmask : mapperMask[i].getLsbD j = true) : r[i].getLsbD j = q[i].getLsbD j := by
  have hbit := congrArg (fun b : Byte => b.getLsbD j) (h i)
  simpa only [BitVec.getLsbD_and, hmask, Bool.and_true] using hbit

/-- They agree on each byte whose whole mask is set. -/
theorem AgreeOnMapped.byte {r q : Record} (h : AgreeOnMapped r q) (i : Fin 17) (hmask : mapperMask[i] = BitVec.allOnes 8) :
    r[i] = q[i] := by
  have hbyte := h i
  rwa [hmask, BitVec.and_allOnes, BitVec.and_allOnes] at hbyte

/-- They agree on the six digit cells. -/
theorem AgreeOnMapped.cellByte_eq {r q : Record} (h : AgreeOnMapped r q) (k : Fin 6) : cellByte r k = cellByte q k := by
  have hmask : ∀ k : Fin 6, mapperMask[3 + k.val] = BitVec.allOnes 8 := by decide
  exact h.byte ⟨3 + k.val, by omega⟩ (hmask k)

theorem AgreeOnMapped.flagDbm_eq {r q : Record} (h : AgreeOnMapped r q) : flagDbm r = flagDbm q := h.bit 1 0 rfl

theorem AgreeOnMapped.flagPercent_eq {r q : Record} (h : AgreeOnMapped r q) : flagPercent r = flagPercent q := h.bit 15 4 rfl

/-- The text depends on the cells alone (R152). -/
theorem displayText_congr (b : BuildParams) {r q : Record} (h : ∀ k, cellByte r k = cellByte q k) :
    displayText b r = displayText b q := by
  simp only [displayText_eq_cells, cellText_eq, h]

/-- The unmapped bits depend on the cells alone (R152). -/
theorem unmappedCells_congr (b : BuildParams) {r q : Record} (h : ∀ k, cellByte r k = cellByte q k) :
    unmappedCells b r = unmappedCells b q := by
  simp only [unmappedCells, cellUnmapped, h]

/-- The scale depends on the seven flags of R155. -/
theorem AgreeOnMapped.scaleOf_eq {r q : Record} (h : AgreeOnMapped r q) : scaleOf r = scaleOf q := by
  have hmega : flagMega r = flagMega q := h.bit 1 7 rfl
  have hkilo : flagKilo r = flagKilo q := h.bit 1 6 rfl
  have hmilli : flagMilli r = flagMilli q := h.bit 1 1 rfl
  have hmicro : flagMicro r = flagMicro q := h.bit 1 2 rfl
  have hnano : flagNano r = flagNano q := h.bit 2 6 rfl
  simp only [scaleOf, h.flagDbm_eq, h.flagPercent_eq, hmega, hkilo, hmilli, hmicro, hnano]

/-- The unit depends on the switch byte and the two overriding flags (R156, R157). -/
theorem AgreeOnMapped.unitOf_eq {r q : Record} (h : AgreeOnMapped r q) : unitOf r = unitOf q := by
  have hswitch : r[0] = q[0] := h.byte 0 rfl
  simp only [unitOf, h.flagDbm_eq, h.flagPercent_eq, hswitch]

/-- The AC/DC code depends on its two flags (R159). -/
theorem AgreeOnMapped.acdcOf_eq {r q : Record} (h : AgreeOnMapped r q) : acdcOf r = acdcOf q := by
  have hdc : flagDc r = flagDc q := h.bit 2 2 rfl
  have hac : flagAc r = flagAc q := h.bit 2 3 rfl
  simp only [acdcOf, hdc, hac]

/-- The modifier depends on its four flags (R160). -/
theorem AgreeOnMapped.modifierOf_eq {r q : Record} (h : AgreeOnMapped r q) : modifierOf r = modifierOf q := by
  have hdelta : flagDelta r = flagDelta q := h.bit 16 3 rfl
  have hpeak : flagPeakToPeak r = flagPeakToPeak q := h.bit 16 2 rfl
  have hmax : flagMax r = flagMax q := h.bit 16 1 rfl
  have hmin : flagMin r = flagMin q := h.bit 15 2 rfl
  simp only [modifierOf, hdelta, hpeak, hmax, hmin]

/-- Settles O43: each part of the Reading depends on masked bits alone. -/
theorem unreadInputs : Obligations.UnreadInputs := by
  intro b r q hmasked
  have h : AgreeOnMapped r q := hmasked
  have hswitch : r[0] = q[0] := h.byte 0 rfl
  simp only [mapCore, displayText_congr b h.cellByte_eq, unmappedCells_congr b h.cellByte_eq, h.scaleOf_eq, h.unitOf_eq,
    h.acdcOf_eq, h.modifierOf_eq, hswitch]

/-! ### MAP (R151) -/

theorem exec_map (s : State) : exec .map s = .next (whenIdle s (mapCommand Config.build)) := rfl

/-- A valid Record is mapped, and the command completes (R151). -/
theorem mapCommand_valid (b : BuildParams) {s : State} (hv : s.recValid = true) :
    mapCommand b s = (s.storeReading (mapCore b s.record)).setDone :=
  if_pos hv

/-- Without a valid Record the command raises `NO_RECORD` (R151). -/
theorem mapCommand_invalid (b : BuildParams) {s : State} (hv : s.recValid = false) :
    mapCommand b s = raiseError .noRecord 0 s :=
  if_neg (by simp [hv])

/-- Settles O12: `mapCommand`'s two outcomes on the cleared state. The invariant has `CAL_STATE` not running and `SUBSTEP`
none while idle, so that `raise` changes neither (R243). -/
theorem mapEffect : Obligations.MapEffect := by
  refine ⟨rfl, fun s h => ⟨fun hidle hv => ?_, fun hidle hv => ?_, fun hbusy => ?_⟩⟩
  · rw [exec_map, whenIdle_idle _ hidle, mapCommand_valid (s := clearErr s) _ hv]
    rfl
  · obtain ⟨hrun, hsub, -⟩ := blockInv_idle h hidle
    rw [exec_map, whenIdle_idle _ hidle, mapCommand_invalid (s := clearErr s) _ hv,
      raiseError_notRunning _ _ (by exact hrun), ← hidle, ← hsub]
    rfl
  · rw [exec_map, whenIdle_busy _ hbusy]
    rfl

/-! ### Unit, AC/DC and modifier (R156, R157, R159, R160) -/

/-- The switch bytes with at most one bit set: those R156 gives a unit. -/
def plainSwitches : List Byte := [0x00, 0x01, 0x02, 0x04, 0x08, 0x10, 0x20, 0x40, 0x80]

/-- Every other byte has two bits or more. -/
theorem one_lt_popcount : ∀ sw : Byte, sw ∉ plainSwitches → 1 < popcount sw := by decide

/-- A byte with two bits or more has no unit and sets `SWINV` (R156). -/
theorem switchUnit_of_popcount {sw : Byte} (h : 1 < popcount sw) : switchUnit sw = (15, true) := by
  have hne : sw ≠ 0 := by
    rintro rfl
    exact absurd h (by decide)
  rw [switchUnit, if_neg hne, if_pos h]

/-- dBm forces unit 9 (R157). -/
theorem unitOf_dbm {r : Record} (h : flagDbm r = true) : unitOf r = 9 := if_pos h

/-- Percent without dBm forces unit 10 (R157). -/
theorem unitOf_percent {r : Record} (hd : flagDbm r = false) (hp : flagPercent r = true) : unitOf r = 10 := by
  simp [unitOf, hd, hp]

/-- With neither flag the switch byte gives the unit (R156, R157). -/
theorem unitOf_switch {r : Record} (hd : flagDbm r = false) (hp : flagPercent r = false) : unitOf r = (switchUnit r[0]).1 := by
  simp [unitOf, hd, hp]

/-- The AC/DC code is `2 * DC + AC` (R159). -/
theorem acdcOf_toNat (r : Record) : (acdcOf r).toNat = 2 * (flagDc r).toNat + (flagAc r).toNat := by
  unfold acdcOf
  cases flagDc r <;> cases flagAc r <;> rfl

/-- Settles O45: each field by its rule; of the 256 switch bytes the nine in the list are computed. -/
theorem unitAndLabels : Obligations.UnitAndLabels :=
  ⟨fun _ r => ⟨unitOf_dbm, unitOf_percent, unitOf_switch, rfl, acdcOf_toNat r, rfl, rfl⟩, by decide,
    fun sw hsw => switchUnit_of_popcount (one_lt_popcount sw hsw)⟩

end Sys2Proof.Proofs
end

section
/-! ## Host commands and the two resets (spec/43_host_commands.md rules R175, R176, R178-R180; spec/44_calibration.md rules R222-R224; spec/70_reset_and_hazards.md rules R245, R268, R269) -/

namespace Sys2Proof.Proofs

open Sys2Proof.Machine Sys2Proof.Laws

/-! ### SOFT_RESET and the steps that reset (R179, R245, R268) -/

theorem exec_softReset (s : State) : exec .softReset s = .next (resetBlock s) := rfl

/-- After reset no request is outstanding, so a response is discarded (R13, R279). -/
theorem takenResponse_resetBlock (rsp : Option Word) (s : State) : takenResponse rsp (resetBlock s) = none := rfl

/-- Settles O9: `exec`'s arm is the reset, which leaves nothing outstanding. -/
theorem softResetEffect : Obligations.SoftResetEffect :=
  ⟨rfl, fun s => ⟨exec_softReset s, fun rsp => takenResponse_resetBlock rsp s⟩⟩

/-- P0 answers a read of the host with 0 (R268). -/
theorem phaseP0_read {inp : StepInput} {off : BitVec 12} (s : State) (h : inp.host = some (.read off)) :
    phaseP0 inp s = { State.reset with inputs := s.inputs, hostRdata := some 0 } := by
  rw [phaseP0, h]
  rfl

/-- P0 loses a host access that is no read (R268). -/
theorem phaseP0_notRead {inp : StepInput} (s : State) (h : ∀ off, inp.host ≠ some (.read off)) :
    phaseP0 inp s = { State.reset with inputs := s.inputs } := by
  match hh : inp.host with
  | none => rw [phaseP0, hh]; rfl
  | some (.write off v) => rw [phaseP0, hh]; rfl
  | some (.read off) => exact absurd hh (h off)

/-- What P1 can come to: a state with the fields of `SameHost` unwritten, or the emission of a supply request on one (R114). -/
theorem phaseP1_cases {inp : StepInput} {s t : State} (h : phaseP1 inp s = .next t) :
    ∃ u, SameHost u s ∧ (t = u ∨ ∃ op arg w, t = emitRequest op arg w u) := by
  obtain ⟨u, hu, hsame⟩ := receive_sameHost inp.rx s
  rw [phaseP1_of_receive hu] at h
  have hadv := advance_sameHost Config.build inp u
  cases ha : advance Config.build inp u with
  | next w =>
    rw [ha] at h hadv
    cases h
    exact ⟨t, SameHost.trans hadv hsame, .inl rfl⟩
  | issue i w =>
    rw [ha] at h hadv
    obtain ⟨op, arg, pt, hexec⟩ := exec_supplyRequest (isSupplyRequest_of_issue ha)
    cases (hexec w).symm.trans h
    exact ⟨w, SameHost.trans hadv hsame, .inr ⟨op, arg, pt, rfl⟩⟩
  | stop f =>
    rw [ha] at h
    cases h

/-- P1 leaves the inputs to come. -/
theorem phaseP1_inputs {inp : StepInput} {s t : State} (h : phaseP1 inp s = .next t) : t.inputs = s.inputs := by
  obtain ⟨u, hsame, rfl | ⟨op, arg, w, rfl⟩⟩ := phaseP1_cases h
  · exact hsame.inputs
  · exact (emitRequest_inputs op arg w u).trans hsame.inputs

/-- Settles O52: P0 skips the other phases; `SOFT_RESET` in P2 keeps of P1's state only the inputs to come, which P1 leaves.
The invariant is what gives P1 a next state. -/
theorem resetSteps : Obligations.ResetSteps := by
  refine ⟨fun s hrst => ⟨fun off hread => ?_, fun hno => ?_⟩, fun s off h hrst hoff hw => ?_⟩
  · rw [step_of_rst hrst, phaseP0_read _ hread]
    rfl
  · rw [step_of_rst hrst, phaseP0_notRead _ hno]
    rfl
  · obtain ⟨t, ht⟩ := phaseP1_next (inp := s.input) (blockInv_begin h)
    have hd : decode (.command 0x0000001F) = .ok .softReset := rfl
    rw [step_of_phaseP1 hrst ht, phaseP2_write t hw, memWrite_cmd _ t hoff, commandIssue_decoded t hd, exec_softReset,
      resetBlock, phaseP1_inputs ht, State.begin_inputs]

/-! ### NOP and CLEAR (R176, R178) -/

theorem exec_nop (s : State) : exec .nop s = .next (whenIdle s State.setDone) := rfl

theorem exec_clear (s : State) : exec .clear s = .next (whenIdle s clearCommand) := rfl

/-- Settles O7: the two cases of acceptance. -/
theorem nopEffect : Obligations.NopEffect := by
  refine ⟨rfl, fun s => ⟨fun hidle => ?_, fun hbusy => ?_⟩⟩
  · rw [exec_nop, whenIdle_idle _ hidle]
    rfl
  · rw [exec_nop, whenIdle_busy _ hbusy]
    rfl

/-- What CLEAR writes, with its three terminal states as a list (R178). -/
theorem clearCommand_eq (s : State) : clearCommand s = { s with
    reject := false
    calState := if s.calState ∈ [CalState.converged, .failed, .aborted] then .idle else s.calState
    stopReq := .none
    done := true } := by
  have hterminal : s.calState ∈ [CalState.converged, .failed, .aborted] ↔
      (s.calState = .converged || s.calState = .failed || s.calState = .aborted) = true := by
    simp [or_assoc]
  simp only [clearCommand, hterminal]

/-- Settles O8: the two cases of acceptance. -/
theorem clearEffect : Obligations.ClearEffect := by
  refine ⟨rfl, fun s => ⟨fun hidle => ?_, fun hbusy => ?_⟩⟩
  · rw [exec_clear, whenIdle_idle _ hidle, clearCommand_eq]
    rfl
  · rw [exec_clear, whenIdle_busy _ hbusy]
    rfl

/-! ### The stop commands (R175, R222-R224) -/

/-- The three stop commands with the request each latches. -/
def stopCommandTable : List (Instr × StopReq) := [(.calStopKeep, .keep), (.calStopAdjust, .adjust), (.calAbort, .abort)]

theorem exec_of_mem_stopCommandTable {e : Instr × StopReq} (he : e ∈ stopCommandTable) (s : State) :
    exec e.1 s = .next (stopCommand e.2 s) := by
  simp only [stopCommandTable, List.mem_cons, List.not_mem_nil, or_false] at he
  rcases he with rfl | rfl | rfl <;> rfl

/-- While a calibration runs the request is latched. -/
theorem stopCommand_cal {s : State} (r : StopReq) (h : s.op = .cal) : stopCommand r s = s.latchStop r := by
  rw [stopCommand, if_neg (by simp [h]), if_pos h]

/-- While idle the command completes as NOP. -/
theorem stopCommand_idle {s : State} (r : StopReq) (h : s.op = .idle) : stopCommand r s = (clearErr s).setDone :=
  if_pos h

/-- While another command is busy it is rejected. -/
theorem stopCommand_busy {s : State} (r : StopReq) (hcal : s.op ≠ .cal) (hidle : s.op ≠ .idle) :
    stopCommand r s = s.setReject := by
  rw [stopCommand, if_neg hidle, if_neg hcal]

/-- Settles O14: the three cases of `stopCommand`. -/
theorem stopCommands : Obligations.StopCommands := by
  intro s e he
  rw [exec_of_mem_stopCommandTable he s]
  refine ⟨fun hcal => ?_, fun hidle => ?_, fun hcal hidle => ?_⟩
  · rw [stopCommand_cal _ hcal]
    rfl
  · rw [stopCommand_idle _ hidle]
    rfl
  · rw [stopCommand_busy _ hcal hidle]
    rfl

/-! ### Illegal and rejected command words (R175, R180, R275) -/

/-- `raise` in an idle block: no run is on and no await point is left, so it writes the error and `DONE` only (R243). -/
theorem raiseError_idle {s : State} (e : ErrCode) (i : BitVec 6) (h : BlockInv s) (hidle : s.op = .idle) :
    raiseError e i s = { s with errCode := e, errIndex := i, done := true } := by
  obtain ⟨hrun, hsub, -⟩ := blockInv_idle h hidle
  rw [raiseError_notRunning _ _ hrun, ← hidle, ← hsub]

/-- While idle an illegal word raises `ILLEGAL_COMMAND` (R180). -/
theorem illegalCommand_idle {s : State} (h : s.op = .idle) : illegalCommand s = raiseError .illegalCommand 0 s := by
  rw [illegalCommand, busy_eq_false h]
  rfl

/-- While busy an illegal word is rejected (R180). -/
theorem illegalCommand_busy {s : State} (h : s.op ≠ .idle) : illegalCommand s = s.setReject := by
  rw [illegalCommand, busy_eq_true h]
  rfl

/-- A word with a reserved bit set or an unlisted opcode does not decode (R91, R93). -/
theorem decode_command_error {v : Word} (h : v.extractLsb' 8 24 ≠ 0 ∨
    v.extractLsb' 0 8 ∉ ([0x00, 0x01, 0x02, 0x03, 0x04, 0x10, 0x11, 0x12, 0x13, 0x1E, 0x1F] : List Byte)) :
    ∃ e, decode (.command v) = .error e := by
  cases hd : decode (.command v) with
  | error e => exact ⟨e, rfl⟩
  | ok i =>
    obtain ⟨hrsv, hopc⟩ := (commandLegal.1 v).mp ⟨i, hd⟩
    rcases h with hbit | hunlisted
    · exact absurd hrsv hbit
    · exact absurd hopc hunlisted

/-- The three kinds of command: accepted only while idle, a stop command, or `SOFT_RESET` (R175). -/
theorem exec_command_kinds {v : Word} {i : Instr} (h : decode (.command v) = .ok i) :
    (∃ f, ∀ s, exec i s = .next (whenIdle s f)) ∨ (∃ r, (i, r) ∈ stopCommandTable) ∨ i = .softReset := by
  rcases decode_command_cases h with rfl | rfl | rfl | rfl | rfl | rfl | rfl | rfl | rfl | rfl | rfl
  · exact .inl ⟨_, exec_nop⟩
  · exact .inl ⟨_, exec_acquire⟩
  · exact .inl ⟨_, exec_decode⟩
  · exact .inl ⟨_, exec_map⟩
  · exact .inl ⟨_, exec_sample⟩
  · exact .inl ⟨calStartCommand, fun _ => rfl⟩
  · exact .inr (.inl ⟨.keep, by decide⟩)
  · exact .inr (.inl ⟨.adjust, by decide⟩)
  · exact .inr (.inl ⟨.abort, by decide⟩)
  · exact .inl ⟨_, exec_clear⟩
  · exact .inr (.inr rfl)

/-- A word that decodes to a stop command is one of the three (R92). -/
theorem word_of_decode_stopCommand {v : Word} {i : Instr} {r : StopReq} (h : decode (.command v) = .ok i)
    (hmem : (i, r) ∈ stopCommandTable) : v = 0x00000011 ∨ v = 0x00000012 ∨ v = 0x00000013 := by
  have hwords : ∀ e ∈ stopCommandTable, encode e.1 = .command 0x00000011 ∨ encode e.1 = .command 0x00000012 ∨
      encode e.1 = .command 0x00000013 := by decide
  obtain ⟨hv, -⟩ := encode_of_decode_command h
  simpa only [hv, PortWord.command.injEq] using hwords (i, r) hmem

/-- Settles O17: an illegal word and each of the three kinds of command, while busy; the word of a stop command shows that
no calibration runs, and `SOFT_RESET`'s word is excluded. -/
theorem rejectedCommand : Obligations.RejectedCommand := by
  intro s v hbusy hreset hstop
  cases hd : decode (.command v) with
  | error e =>
    rw [commandIssue_illegal s hd, illegalCommand_busy hbusy]
    rfl
  | ok i =>
    rw [commandIssue_decoded s hd]
    rcases exec_command_kinds hd with ⟨f, hexec⟩ | ⟨r, hmem⟩ | rfl
    · rw [hexec, whenIdle_busy f hbusy]
      rfl
    · have hcal : s.op ≠ .cal := by
        intro hcal
        obtain ⟨hkeep, hadjust, habort⟩ := hstop hcal
        rcases word_of_decode_stopCommand hd hmem with hv | hv | hv
        · exact hkeep hv
        · exact hadjust hv
        · exact habort hv
      rw [exec_of_mem_stopCommandTable hmem s, stopCommand_busy r hcal hbusy]
      rfl
    · exact absurd (word_of_decode_softReset hd) hreset

/-- Settles O18: the word does not decode, and the invariant has an idle block outside a run. -/
theorem illegalCommand : Obligations.IllegalCommand := by
  intro s v h hbad
  obtain ⟨e, he⟩ := decode_command_error hbad
  rw [commandIssue_illegal s he]
  refine ⟨fun hidle => ?_, fun hbusy => ?_⟩
  · rw [illegalCommand_idle hidle, raiseError_idle _ _ h hidle]
  · rw [illegalCommand_busy hbusy]
    rfl

end Sys2Proof.Proofs
end

section
/-! ## Transitions, and the start of a run (spec/44_calibration.md rules R190-R192) -/

namespace Sys2Proof.Proofs

open Sys2Proof.Machine Sys2Proof.Laws

/-! ### goto (R192) -/

/-- Settles O20: the three branches of `gotoState`. -/
theorem gotoEffect : Obligations.GotoEffect := by
  intro s c
  refine ⟨fun habort => ?_, fun hnone hc => ?_, fun hnone hc => gotoState_enter hnone hc⟩
  · rw [gotoState_abort c habort]
    rfl
  · rw [hc, gotoState_converged hnone]
    rfl

/-! ### The configuration check (R190) -/

/-- Check 1 of R190 as the model tests it. -/
theorem sampleCountTest_iff (c : Cfg) :
    (c.nSamples.toNat = 0 || c.nSamples.toNat % 2 = 0 || Config.nMax < c.nSamples.toNat) = true ↔ c.startCheckFails 1 := by
  rw [Bool.or_eq_true, Bool.or_eq_true, decide_eq_true_eq, decide_eq_true_eq, decide_eq_true_eq]
  exact or_assoc

/-- Check 2 of R190 as the model tests it: the references are compared as values. -/
theorem referencesTest_iff (c : Cfg) : c.refLow.eqv c.refHigh = true ↔ c.startCheckFails 2 :=
  Dec.eqv_iff_toRat _ _

/-- The check reports the first of R190's six tests that fails. -/
theorem configCheck_of_firstFailing {c : Cfg} {n : Nat} (hn : c.startCheckFails n)
    (hmin : ∀ m : Nat, m < n → ¬ c.startCheckFails m) : configCheck c = some (BitVec.ofNat 6 n) := by
  have pass1 (h : 1 < n) := mt (sampleCountTest_iff c).mp (hmin 1 h)
  have pass2 (h : 2 < n) := mt (referencesTest_iff c).mp (hmin 2 h)
  have pass3 (h : 3 < n) : ¬ c.settleInitMs = 0 := hmin 3 h
  have pass4 (h : 4 < n) : ¬ c.gainMin.toInt < 1 := hmin 4 h
  have pass5 (h : 5 < n) : ¬ c.gainMax.toInt < c.gainMin.toInt := hmin 5 h
  unfold configCheck
  match n, hn with
  | 1, hn => rw [if_pos ((sampleCountTest_iff c).mpr hn)]; rfl
  | 2, hn => rw [if_neg (pass1 (by decide)), if_pos ((referencesTest_iff c).mpr hn)]; rfl
  | 3, hn => rw [if_neg (pass1 (by decide)), if_neg (pass2 (by decide)), if_pos (by exact hn)]; rfl
  | 4, hn => rw [if_neg (pass1 (by decide)), if_neg (pass2 (by decide)), if_neg (pass3 (by decide)), if_pos (by exact hn)]; rfl
  | 5, hn =>
    rw [if_neg (pass1 (by decide)), if_neg (pass2 (by decide)), if_neg (pass3 (by decide)), if_neg (pass4 (by decide)),
      if_pos (by exact hn)]; rfl
  | 6, hn =>
    rw [if_neg (pass1 (by decide)), if_neg (pass2 (by decide)), if_neg (pass3 (by decide)), if_neg (pass4 (by decide)),
      if_neg (pass5 (by decide)), if_pos (by exact hn)]; rfl

/-- The check passes when none of the six tests fails. -/
theorem configCheck_of_noneFailing {c : Cfg} (h : ∀ n : Nat, ¬ c.startCheckFails n) : configCheck c = none := by
  unfold configCheck
  rw [if_neg (mt (sampleCountTest_iff c).mp (h 1)), if_neg (mt (referencesTest_iff c).mp (h 2)), if_neg (by exact h 3),
    if_neg (by exact h 4), if_neg (by exact h 5), if_neg (by exact h 6)]

/-! ### CAL_START (R190, R191) -/

theorem exec_calStart (s : State) : exec .calStart s = .next (whenIdle s calStartCommand) := rfl

/-- A failing check is reported and ends the command (R190). -/
theorem calStartCommand_refused {s : State} {n : BitVec 6} (h : configCheck s.cfg = some n) :
    calStartCommand s = raiseError .configError n s.accept := by
  simp only [calStartCommand, h]

/-- With no failing check the session starts and READ_CAL is entered: `session_init` has cleared the stop request (R191). -/
theorem calStartCommand_started {s : State} (h : configCheck s.cfg = none) :
    calStartCommand s = { (sessionInit s.accept).enterCal with calState := .readCal, substep := .entry } := by
  simp only [calStartCommand, h]
  exact gotoState_enter (by simp) (by decide)

/-- Settles O13: the check's two outcomes while idle, where no run is on, and the rejection while busy. -/
theorem calStartEffect : Obligations.CalStartEffect := by
  refine ⟨rfl, fun s h => ⟨fun n hidle hn hmin => ?_, fun hidle hpass => ?_, fun hbusy => ?_⟩⟩
  · obtain ⟨hrun, hsub, -⟩ := blockInv_idle h hidle
    rw [exec_calStart, whenIdle_idle _ hidle, calStartCommand_refused (s := clearErr s) (configCheck_of_firstFailing hn hmin),
      raiseError_notRunning (s := (clearErr s).accept) _ _ hrun]
    exact next_congr (by cases s; cases hidle; cases hsub; rfl)
  · rw [exec_calStart, whenIdle_idle _ hidle, calStartCommand_started (s := clearErr s) (configCheck_of_noneFailing hpass)]
    rfl
  · rw [exec_calStart, whenIdle_busy _ hbusy]
    rfl

end Sys2Proof.Proofs
end

section
/-! ## The end of a batch (spec/44_calibration.md rules R200-R203) -/

namespace Sys2Proof.Proofs

open Sys2Proof.Machine Sys2Proof.Laws

/-! ### The median (R200) -/

/-- A batch's three samples are the middle and the two ends of the sorted list (R200, R201). -/
theorem batchOf_eq_some_iff (n : Nat) (buf : List Sample) (m : Batch) : batchOf n buf = some m ↔
    (sortSamples buf).head? = some m.low ∧ (sortSamples buf)[(n - 1) / 2]? = some m.median ∧
      (sortSamples buf).getLast? = some m.high := by
  unfold batchOf
  split
  next low median high hlow hmedian hhigh =>
    rw [hlow, hmedian, hhigh]
    cases m
    simp
  next hnone =>
    refine iff_of_false (by simp) ?_
    rintro ⟨hlow, hmedian, hhigh⟩
    exact hnone _ _ _ hlow hmedian hhigh

/-- Samples with different arrival indices are sorted strictly (R200). -/
theorem sortSamples_strict {buf : List Sample} (h : (buf.map Sample.arrival).Nodup) :
    (sortSamples buf).Pairwise
      (fun a b => a.value.toRat < b.value.toRat ∨ (a.value.toRat = b.value.toRat ∧ a.arrival < b.arrival)) := by
  have hdistinct : (sortSamples buf).Pairwise (fun a b => a.arrival ≠ b.arrival) :=
    List.pairwise_map.mp ((((sortSamples_perm buf).map Sample.arrival).nodup_iff).mpr h)
  refine ((sortSamples_sorted buf).and hdistinct).imp ?_
  rintro a b ⟨hlt | ⟨heq, hle⟩, hne⟩
  · exact .inl hlt
  · exact .inr ⟨heq, lt_of_le_of_ne hle hne⟩

/-- Settles O26: the sorted list is `sortSamples`, strict because the arrival indices differ. -/
theorem medianOfBatch : Obligations.MedianOfBatch := by
  intro buf hodd harrival
  obtain ⟨m, hm⟩ := Option.isSome_iff_exists.mp (batchOf_isSome buf (by omega))
  obtain ⟨hlow, hmedian, hhigh⟩ := (batchOf_eq_some_iff _ _ _).mp hm
  exact ⟨m, sortSamples buf, hm, sortSamples_perm buf, sortSamples_strict (harrival ▸ List.nodup_range), hmedian, hlow, hhigh⟩

/-! ### The spread test and what follows it (R201-R203) -/

/-- The spread test compares the exact rationals (R201). -/
theorem noisy_iff (m : Batch) (thr : Dec) : m.noisy thr = true ↔ thr.toRat < m.high.value.toRat - m.low.value.toRat := by
  rw [Batch.noisy, Bool.not_eq_true', ← Bool.not_eq_true, Dec.le_iff_toRat, Dec.sub_toRat, not_le]

/-- A batch with a spread above the threshold is rejected. -/
theorem finishBatch_noisy {p : Point} {s : State} {m : Batch} (hm : batchOf s.cfg.nSamples.toNat s.sampleBuf = some m)
    (h : s.cfg.noiseThr.toRat < m.high.value.toRat - m.low.value.toRat) : finishBatch p s = .next (rejectBatch p s) := by
  simp only [finishBatch, hm, (noisy_iff m _).mpr h, if_true]

/-- A batch with a spread at most the threshold is accepted. -/
theorem finishBatch_quiet {p : Point} {s : State} {m : Batch} (hm : batchOf s.cfg.nSamples.toNat s.sampleBuf = some m)
    (h : m.high.value.toRat - m.low.value.toRat ≤ s.cfg.noiseThr.toRat) :
    finishBatch p s = .next (acceptBatch p m.median s) := by
  have hquiet : ¬ m.noisy s.cfg.noiseThr = true := mt (noisy_iff m _).mp (not_lt.mpr h)
  simp only [finishBatch, hm, if_neg hquiet]

/-- Within its range `BATCH_RETRY` counts without wrapping (R32, R202). -/
theorem countReject_batchRetry_toNat {s : State} (h : s.batchRetry.toNat ≤ 256) :
    s.countReject.batchRetry.toNat = s.batchRetry.toNat + 1 := by
  rw [State.countReject_batchRetry, BitVec.toNat_add]
  have hone : (1 : BitVec 9).toNat = 1 := rfl
  omega

/-- One rejection too many fails the run (R202). -/
theorem rejectBatch_raise {p : Point} {s : State} (hr : s.calState.running = true) (h : s.batchRetry.toNat ≤ 256)
    (hcap : s.cfg.maxBatchRetries.toNat < s.batchRetry.toNat + 1) :
    rejectBatch p s = s.countReject.failedWith .calUnstable 0 := by
  unfold rejectBatch
  simp only [countReject_batchRetry_toNat h]
  exact (if_pos hcap).trans (raiseError_running _ _ hr)

/-- A rejection within the cap goes back to the set-point with a longer settle time (R202). -/
theorem rejectBatch_retry {p : Point} {s : State} (h : s.batchRetry.toNat ≤ 256)
    (hcap : s.batchRetry.toNat + 1 ≤ s.cfg.maxBatchRetries.toNat) :
    rejectBatch p s = gotoState p.setState s.countReject.growSettle := by
  unfold rejectBatch
  simp only [countReject_batchRetry_toNat h]
  exact if_neg (not_lt.mpr hcap)

/-- The MEAS states are running states (R27). -/
theorem measState_running (p : Point) : p.measState.running = true := by cases p <;> rfl

/-- Settles O25: the spread test, and on a rejection the test of the cap. -/
theorem batchDecision : Obligations.BatchDecision := by
  intro p s m hretry hc hm
  refine ⟨fun hnoisy => ?_, fun hquiet => ?_⟩
  · rw [finishBatch_noisy hm hnoisy]
    exact ⟨fun hcap => advance_congr (rejectBatch_raise (hc ▸ measState_running p) hretry hcap),
      fun hcap => advance_congr (rejectBatch_retry hretry hcap)⟩
  · rw [finishBatch_quiet hm hquiet]
    cases p <;> rfl

end Sys2Proof.Proofs
end

section
/-! ## The calibration's arithmetic (spec/44_calibration.md rules R204-R214, R230) -/

namespace Sys2Proof.Proofs

open Sys2Proof.Machine Sys2Proof.Laws

/-! ### The settle time's growth (R204) -/

/-- `grow` never shortens the settle time (R204). -/
theorem le_grow (v : Word) : v.toNat ≤ (grow v).toNat := by
  have := v.isLt
  rw [grow_toNat]
  omega

/-- `grow` lengthens a settle time of at least 1, unless it is at its ceiling (R204). -/
theorem lt_grow {v : Word} (h : v ≠ 0) : v.toNat < (grow v).toNat ∨ v = BitVec.allOnes 32 := by
  have hpos : v.toNat ≠ 0 := fun hz => h (BitVec.eq_of_toNat_eq hz)
  by_cases hmax : v = BitVec.allOnes 32
  · exact .inr hmax
  · have hlt : v.toNat ≠ 2 ^ 32 - 1 := fun e => hmax (BitVec.eq_of_toNat_eq (by rw [e, BitVec.toNat_allOnes]))
    have := v.isLt
    left
    rw [grow_toNat]
    omega

/-- At its ceiling the settle time stays there (R204). -/
theorem grow_allOnes : grow (BitVec.allOnes 32) = BitVec.allOnes 32 := by decide

/-- `(n + 3) / 4` is the ceiling of a quarter. -/
theorem ceil_quarter (n : ℕ) : ⌈(n : ℚ) / 4⌉ = (((n + 3) / 4 : ℕ) : ℤ) := by
  have hlo : 4 * ((n + 3) / 4) < n + 4 := by omega
  have hhi : n ≤ 4 * ((n + 3) / 4) := by omega
  rw [Int.ceil_eq_iff, Int.cast_natCast]
  constructor
  · rw [lt_div_iff₀ (by norm_num)]
    have : (4 * ((n + 3) / 4 : ℕ) : ℚ) < n + 4 := by exact_mod_cast hlo
    linarith
  · rw [div_le_iff₀ (by norm_num)]
    have : (n : ℚ) ≤ 4 * ((n + 3) / 4 : ℕ) := by exact_mod_cast hhi
    linarith

/-- Settles O27: the formula from `grow_toNat`, the strict growth from `lt_grow`. -/
theorem settleGrowth : Obligations.SettleGrowth := by
  refine ⟨fun s => ?_, fun s hs => lt_grow hs, by decide, by decide, by decide, by decide⟩
  rw [grow_toNat, ceil_quarter]
  omega

/-! ### The damped gain (R208) -/

/-- `fourX` is the floor of 4x for x = G² × slope, slope ≥ 0. -/
theorem le_fourX_iff (g : ℤ) (q : Ratio) (hden : q.den ≠ 0) (hq : 0 ≤ q.toRat) (n : ℕ) :
    n ≤ fourX g q ↔ (n : ℚ) ≤ 4 * ((g : ℚ) ^ 2 * q.toRat) := by
  have hpos : 0 < q.den.natAbs := Int.natAbs_pos.mpr hden
  have hposQ : (0 : ℚ) < (q.den.natAbs : ℚ) := by exact_mod_cast hpos
  have hsq : (g : ℚ) ^ 2 = (g.natAbs : ℚ) * (g.natAbs : ℚ) := by
    rw [← sq_abs, Nat.cast_natAbs, Int.cast_abs, pow_two]
  have hfour : 4 * ((g : ℚ) ^ 2 * q.toRat) = ((4 * g.natAbs * g.natAbs * q.num.natAbs : ℕ) : ℚ) / (q.den.natAbs : ℚ) := by
    rw [hsq, ← abs_of_nonneg hq, q.abs_toRat]
    push_cast
    ring
  rw [hfour, le_div_iff₀ hposQ, fourX, Nat.le_div_iff_mul_le hpos]
  exact_mod_cast Iff.rfl

/-- `2k - 1 ≤ isqrt (floor(4x))` says `(2k - 1)² ≤ 4x`: the square is an integer. -/
theorem le_dampedGain_iff (g : ℤ) (q : Ratio) (hden : q.den ≠ 0) (hq : 0 ≤ q.toRat) {k : ℤ} (hk : 1 ≤ k) :
    k ≤ dampedGain g q ↔ (2 * (k : ℚ) - 1) ^ 2 ≤ 4 * ((g : ℚ) ^ 2 * q.toRat) := by
  obtain ⟨n, rfl⟩ : ∃ n : ℕ, k = n + 1 := ⟨(k - 1).toNat, by omega⟩
  have hodd : (2 * (((n : ℤ) + 1 : ℤ) : ℚ) - 1) ^ 2 = (((2 * n + 1) * (2 * n + 1) : ℕ) : ℚ) := by
    push_cast
    ring
  rw [hodd, ← le_fourX_iff g q hden hq, sq_le_iff_le_isqrt, dampedGain]
  omega

/-- The damped gain is the integer R208 names. -/
theorem isDampedGain_dampedGain (g : ℤ) (q : Ratio) (hden : q.den ≠ 0) (hq : 0 ≤ q.toRat) :
    IsDampedGain ((g : ℚ) ^ 2 * q.toRat) (dampedGain g q) := by
  have hone := le_dampedGain_iff g q hden hq le_rfl
  have hnonneg : 0 ≤ dampedGain g q := by unfold dampedGain; omega
  norm_num at hone
  by_cases hx : 1 ≤ 4 * ((g : ℚ) ^ 2 * q.toRat)
  · have hpos := hone.mpr hx
    exact .inr ⟨hx, ⟨hpos, (le_dampedGain_iff g q hden hq hpos).mp le_rfl⟩,
      fun k ⟨hk, hsq⟩ => (le_dampedGain_iff g q hden hq hk).mpr hsq⟩
  · have := mt hone.mp hx
    exact .inl ⟨not_le.mp hx, by omega⟩

/-! ### The exact quantities (R206-R211) -/

/-- The references' difference is not 0 when they differ. -/
theorem refDiff_ne_zero {c : Cfg} (h : c.refLow.toRat ≠ c.refHigh.toRat) : (c.refHigh.sub c.refLow).toRat ≠ 0 := by
  rw [Dec.sub_toRat, sub_ne_zero]
  exact h.symm

theorem slopeOf_den_ne_zero {c : Cfg} (x : Session) (h : c.refLow.toRat ≠ c.refHigh.toRat) : (slopeOf c x).den ≠ 0 :=
  Dec.ratio_den_ne_zero _ _ (refDiff_ne_zero h)

/-- The slope is exact (R206). -/
theorem slopeOf_toRat (c : Cfg) (x : Session) : (slopeOf c x).toRat = slopeRat c x := by
  rw [slopeOf, Dec.ratio_toRat, Dec.sub_toRat, Dec.sub_toRat, slopeRat]

/-- A quotient times an integer, kept as a pair, is rounded once. -/
theorem rnd_mul_num (z : ℤ) (q : Ratio) (hden : q.den ≠ 0) :
    ({ num := z * q.num, den := q.den } : Ratio).rnd = rndRat ((z : ℚ) * q.toRat) := by
  rw [rnd_eq_rndRat { num := z * q.num, den := q.den } hden]
  simp only [Ratio.toRat]
  push_cast
  rw [mul_div_assoc]

/-- The undamped gain is rounded once (R207). -/
theorem undampedGain_eq (g : ℤ) (q : Ratio) (hden : q.den ≠ 0) : undampedGain g q = rndRat ((g : ℚ) * q.toRat) :=
  rnd_mul_num g q hden

/-- The new gain is R207's or R208's integer; under damping for a slope that is not negative. -/
theorem isNewGain_newGainOf {c : Cfg} {x : Session} (h : c.refLow.toRat ≠ c.refHigh.toRat)
    (hslope : ¬ (c.gainDamp = true ∧ slopeRat c x < 0)) : IsNewGain c x (newGainOf c x) := by
  have hden := slopeOf_den_ne_zero x h
  unfold IsNewGain newGainOf
  split
  next hdamp =>
    rw [← slopeOf_toRat]
    exact isDampedGain_dampedGain _ _ hden (by rw [slopeOf_toRat]; exact not_lt.mp fun hneg => hslope ⟨hdamp, hneg⟩)
  next => rw [undampedGain_eq _ _ hden, slopeOf_toRat]

/-- The offset's correction is exact, rounded once (R209). -/
theorem corrOf_eq {c : Cfg} (x : Session) (h : c.refLow.toRat ≠ c.refHigh.toRat) : corrOf c x = corrRat c x := by
  refine (rnd_mul_num 1000000 _ (Dec.ratio_den_ne_zero _ _ (refDiff_ne_zero h))).trans ?_
  rw [Dec.ratio_toRat, Dec.sub_toRat, Dec.sub_toRat, Dec.mul_toRat, Dec.mul_toRat, corrRat, mul_div_assoc]
  norm_num

/-- The ppm figure is exact, rounded once (R211). -/
theorem ppmOf_eq {g : ℤ} (ng : ℤ) (h : 1 ≤ g) : ppmOf g ng = ppmRat g ng := by
  rw [ppmOf, rnd_eq_rndRat _ (show g ≠ 0 by omega), ppmRat, Ratio.toRat]
  push_cast
  norm_num

/-! ### ComputeCorrection's checks (R208, R214) -/

/-- Under damping a negative slope diverges (R208). -/
theorem divergesDamped_iff {c : Cfg} (x : Session) (h : c.refLow.toRat ≠ c.refHigh.toRat) :
    (c.gainDamp && (slopeOf c x).neg) = true ↔ c.gainDamp = true ∧ slopeRat c x < 0 := by
  rw [Bool.and_eq_true, Ratio.neg_iff_toRat _ (slopeOf_den_ne_zero x h), slopeOf_toRat]

/-- The three checks in the rule's order, each with the exact quantity it tests (R205, R208, R214). -/
theorem computeCorrection_eq {c : Cfg} {x : Session} (h : c.refLow.toRat ≠ c.refHigh.toRat) (hg : 1 ≤ x.gain.toInt) :
    computeCorrection c x =
      if c.gainDamp && (slopeOf c x).neg then .error 1
      else if x.offset.toInt - corrRat c x < c.offsetMin.toInt || c.offsetMax.toInt < x.offset.toInt - corrRat c x then .error 2
      else if newGainOf c x < c.gainMin.toInt || c.gainMax.toInt < newGainOf c x then .error 3
      else .ok
        { newOffset := x.offset.toInt - corrRat c x, newGain := newGainOf c x, corr := corrRat c x
          ppm := ppmRat x.gain.toInt (newGainOf c x) } := by
  simp only [computeCorrection, corrOf_eq x h, ppmOf_eq _ hg]

/-- Under damping a negative slope is the first check's failure (R208). -/
theorem computeCorrection_negativeSlope {c : Cfg} {x : Session} (h : c.refLow.toRat ≠ c.refHigh.toRat)
    (hd : c.gainDamp = true) (hs : slopeRat c x < 0) : computeCorrection c x = .error 1 := by
  unfold computeCorrection
  exact if_pos ((divergesDamped_iff x h).mpr ⟨hd, hs⟩)

/-- Settles O30: the first check, and with it passed the two bounds checks on the exact results. -/
theorem correctionExact : Obligations.CorrectionExact := by
  intro c x href hg
  refine ⟨computeCorrection_negativeSlope href, fun hslope => ⟨newGainOf c x, isNewGain_newGainOf href hslope, ?_⟩⟩
  rw [computeCorrection_eq href hg, if_neg (mt (divergesDamped_iff x href).mp hslope)]
  refine ⟨fun ho => ?_, fun ho hng => ?_, fun ho hng => ?_⟩
  · rw [if_pos (by simpa using ho)]
  · rw [if_neg (by simpa using ho), if_pos (by simpa using hng)]
  · rw [if_neg (by simpa using ho), if_neg (by simpa using hng)]

/-- What a passing correction is: the model's gain, with both results in their bounds (R214). -/
theorem newGain_of_ok {c : Cfg} {x : Session} {k : Correction} (h : computeCorrection c x = .ok k) :
    k.newGain = newGainOf c x ∧ c.gainMin.toInt ≤ k.newGain ∧ k.newGain ≤ c.gainMax.toInt := by
  unfold computeCorrection at h
  simp only at h
  split_ifs at h with hdiv hoff hgain
  cases h
  simp only [Bool.or_eq_true, decide_eq_true_eq, not_or, not_lt] at hgain
  exact ⟨rfl, hgain⟩

/-! ### COMPUTE (R205, R213, R215) -/

/-- A running calibration's references differ (R190). -/
theorem references_ne_of_cal {s : State} (h : BlockInv s) (hop : s.op = .cal) : s.cfg.refLow.toRat ≠ s.cfg.refHigh.toRat := by
  intro heq
  have hcheck := h.config hop
  unfold configCheck at hcheck
  rw [if_pos ((Dec.eqv_iff_toRat _ _).mpr heq)] at hcheck
  split at hcheck <;> cases hcheck

/-- A running calibration's minimum gain is at least 1 (R190). -/
theorem one_le_gainMin_of_cal {s : State} (h : BlockInv s) (hop : s.op = .cal) : 1 ≤ s.cfg.gainMin.toInt := by
  have hcheck := h.config hop
  unfold configCheck at hcheck
  split_ifs at hcheck
  omega

/-- COMPUTE's step is its body: the correction is defined in every state of the invariant (R205). -/
theorem advance_compute {b : BuildParams} {inp : StepInput} {s : State} (h : BlockInv s) (hop : s.op = .cal)
    (hc : s.calState = .compute) : advance b inp s = .next (computeBody s) := by
  have hs : s.substep = .entry := by simpa [hc, CalState.awaits] using awaits_of_cal h hop
  have hgain : 1 ≤ s.ses.gain.toInt := by
    obtain ⟨-, hin⟩ := h.constants hop (by rw [hc]; rfl)
    have hmin := one_le_gainMin_of_cal h hop
    simp only [Cfg.gainInBounds, Bool.and_eq_true, decide_eq_true_eq] at hin
    omega
  have hdef : correctionDefined s.cfg s.ses = true := by
    simp only [correctionDefined, Bool.and_eq_true, Bool.not_eq_true', ← Bool.not_eq_true, Dec.eqv_iff_toRat, decide_eq_true_eq]
    exact ⟨references_ne_of_cal h hop, hgain⟩
  rw [advance_cal hop]
  simp only [calStep, hc, computeStep, hs, if_pos hdef]

/-- A diverging correction fails the run (R208, R214). -/
theorem advance_compute_error {b : BuildParams} {inp : StepInput} {s : State} (h : BlockInv s) (hop : s.op = .cal)
    (hc : s.calState = .compute) {i : BitVec 6} (hk : computeCorrection s.cfg s.ses = .error i) :
    advance b inp s = .next (s.failedWith .calDivergence i) := by
  rw [advance_compute h hop hc]
  simp only [computeBody, hk]
  exact advance_congr (raiseError_running _ _ (running_of_cal h hop))

/-- A passing correction is stored, and the stop decision follows (R213, R215). -/
theorem advance_compute_ok {b : BuildParams} {inp : StepInput} {s : State} (h : BlockInv s) (hop : s.op = .cal)
    (hc : s.calState = .compute) {k : Correction} (hk : computeCorrection s.cfg s.ses = .ok k) :
    advance b inp s = .next (stopDecision (s.storeCorrection k)) := by
  rw [advance_compute h hop hc]
  simp only [computeBody, hk]

/-- With no request the round writes its correction, and goes on (R215). -/
theorem stopDecision_none {s : State} (h : s.stopReq = .none) :
    stopDecision s = { s.setRound false false with calState := .writeCal, substep := .entry } := by
  simp only [stopDecision, h]
  exact gotoState_enter (by simp [h]) (by decide)

/-- On an adjusting stop the round writes its correction, and is the last (R215). -/
theorem stopDecision_adjust {s : State} (h : s.stopReq = .adjust) :
    stopDecision s = { s.setRound false true with calState := .writeCal, substep := .entry } := by
  simp only [stopDecision, h]
  exact gotoState_enter (by simp [h]) (by decide)

/-- On a keeping stop the round writes nothing, and is the last (R215). -/
theorem stopDecision_keep {s : State} (h : s.stopReq = .keep) :
    stopDecision s = { s.setRound false true with calState := .logRound, substep := .entry } := by
  simp only [stopDecision, h]
  exact gotoState_enter (by simp [h]) (by decide)

/-- A pending abort is taken, and the round has written nothing (R192, R215). -/
theorem stopDecision_abort {s : State} (h : s.stopReq = .abort) :
    stopDecision s = takeAbort (s.setRound false s.roundStop) := by
  simp only [stopDecision, h]
  exact gotoState_abort _ h

/-- Settles O31: the failed correction, and the stored one followed by each of the four stop decisions. -/
protected theorem computeStep : Obligations.ComputeStep := by
  intro b s inp h hop hc
  refine ⟨fun i hk => advance_compute_error h hop hc hk, fun k hk => ?_⟩
  rw [advance_compute_ok h hop hc hk, ← sat32_eq_clamp, ← sat32_eq_clamp]
  refine ⟨fun hq => ?_, fun hq => ?_, fun hq => ?_, fun hq => ?_⟩
  · exact advance_congr (stopDecision_none (s := s.storeCorrection k) hq)
  · exact advance_congr (stopDecision_adjust (s := s.storeCorrection k) hq)
  · exact advance_congr (stopDecision_keep (s := s.storeCorrection k) hq)
  · rw [stopDecision_abort (s := s.storeCorrection k) hq]
    have hindex : s.calState.code.setWidth 6 = 6 := by rw [hc]; rfl
    simp only [takeAbort, State.setRound_calState, State.storeCorrection_calState, hindex]
    rfl

/-- The stop decision leaves the session's registers (R215). -/
theorem stopDecision_ses (s : State) : (stopDecision s).ses = s.ses := by
  unfold stopDecision
  split <;> exact gotoState_ses _ _

/-- Settles O29: R208's integer for every gain and slope; in COMPUTE the divergence, and the stored gain, which is in
bounds and so survives its register. -/
protected theorem dampedGain : Obligations.DampedGain := by
  refine ⟨fun g q _ hden hq => isDampedGain_dampedGain g q hden hq,
    fun b s inp h hop hc hdamp => ⟨fun hneg => ?_, fun hpos k hk => ?_⟩⟩
  · exact advance_compute_error h hop hc (computeCorrection_negativeSlope (references_ne_of_cal h hop) hdamp hneg)
  · obtain ⟨hgain, hlo, hhi⟩ := newGain_of_ok hk
    refine ⟨?_, fun t ht => ?_⟩
    · have hnew := isNewGain_newGainOf (x := s.ses) (references_ne_of_cal h hop) (fun hs => absurd hs.2 (not_lt.mpr hpos))
      rw [IsNewGain, if_pos hdamp] at hnew
      exact hgain ▸ hnew
    · rw [advance_compute_ok h hop hc hk] at ht
      cases ht
      rw [stopDecision_ses]
      have hmin := BitVec.le_toInt s.cfg.gainMin
      have hmax := BitVec.toInt_lt (x := s.cfg.gainMax)
      exact toInt_ofInt32 k.newGain (by omega) (by omega)

/-! ### The worked example (R230) -/

/-- The configuration of R230's example, undamped or damped. -/
def exampleCfg (damp : Bool) : Cfg := { Cfg.reset with refLowMant := 1, refHighMant := 5, gainDamp := damp }

/-- The session of R230's example: gain 10^6, the medians 1.001 and 4.998. -/
def exampleSession (o : Word) : Session :=
  { Session.reset with offset := o, gain := 1000000, mlowMant := 1001, mlowExp := 0xFD, mhighMant := 4998, mhighExp := 0xFD }

/-- The example's correction is the same for every offset. -/
theorem corrOf_example (damp : Bool) (o : Word) : corrOf (exampleCfg damp) (exampleSession o) = 1750 := by
  show corrOf (exampleCfg damp) (exampleSession 0) = 1750
  revert damp
  decide

/-- The example's slope, as the pair the model computes. -/
theorem slopeOf_example (damp : Bool) (o : Word) : slopeOf (exampleCfg damp) (exampleSession o) = ⟨3997, 4000⟩ := by
  show slopeOf (exampleCfg damp) (exampleSession 0) = ⟨3997, 4000⟩
  revert damp
  decide

/-- The square root is r when n stands between r² and (r + 1)². -/
theorem isqrt_eq {n r : ℕ} (hlo : r * r ≤ n) (hhi : n < (r + 1) * (r + 1)) : isqrt n = r := by
  have hle := (sq_le_iff_le_isqrt r n).mp hlo
  have hlt := mt (sq_le_iff_le_isqrt (r + 1) n).mpr (not_le.mpr hhi)
  omega

/-- The example's undamped gain. -/
theorem undampedGain_example : undampedGain 1000000 ⟨3997, 4000⟩ = 999250 := by norm_num [undampedGain, Ratio.rnd]

/-- The example's damped gain: `(2 × 999625 - 1)²` is the last odd square up to 4x = 3997 × 10⁹. -/
theorem dampedGain_example : dampedGain 1000000 ⟨3997, 4000⟩ = 999625 := by
  have hx : fourX 1000000 ⟨3997, 4000⟩ = 3997000000000 := by norm_num [fourX]
  have hroot : isqrt 3997000000000 = 1999249 := isqrt_eq (by norm_num) (by norm_num)
  rw [dampedGain, hx, hroot]
  rfl

/-- The example's new gain, undamped and damped. -/
theorem newGainOf_example (damp : Bool) (o : Word) :
    newGainOf (exampleCfg damp) (exampleSession o) = if damp then 999625 else 999250 := by
  have hgain : (exampleSession o).gain.toInt = 1000000 := rfl
  rw [newGainOf, slopeOf_example, hgain, dampedGain_example, undampedGain_example]
  rfl

/-- The example's outcome for every offset: only the lower offset bound can fail (R214). -/
theorem computeCorrection_example (damp : Bool) (o : Word) :
    computeCorrection (exampleCfg damp) (exampleSession o) =
      if o.toInt < -(2 ^ 31) + 1750 then .error 2
      else .ok
        { newOffset := o.toInt - 1750, newGain := if damp then 999625 else 999250, corr := 1750
          ppm := if damp then -375 else -750 } := by
  have hlt := BitVec.toInt_lt (x := o)
  have hoff : (exampleSession o).offset = o := rfl
  have hgain : (exampleSession o).gain.toInt = 1000000 := rfl
  have hmin : (exampleCfg damp).offsetMin.toInt = -(2 ^ 31) := rfl
  have hmax : (exampleCfg damp).offsetMax.toInt = 2 ^ 31 - 1 := rfl
  have hgmin : (exampleCfg damp).gainMin.toInt = 1 := rfl
  have hgmax : (exampleCfg damp).gainMax.toInt = 2 ^ 31 - 1 := rfl
  have hneg : (⟨3997, 4000⟩ : Ratio).neg = false := rfl
  have hppm : ppmOf 1000000 (if damp then 999625 else 999250) = if damp then -375 else -750 := by
    revert damp
    decide
  have hbounds : ¬ ((if damp then 999625 else 999250 : ℤ) < 1 ∨ (2 ^ 31 - 1 : ℤ) < if damp then 999625 else 999250) := by
    revert damp
    decide
  simp only [computeCorrection, slopeOf_example, hneg, Bool.and_false, Bool.false_eq_true, if_false, corrOf_example,
    newGainOf_example, hoff, hgain, hmin, hmax, hgmin, hgmax, hppm, Bool.or_eq_true, decide_eq_true_eq, if_neg hbounds]
  congr 1
  exact propext (by omega)

/-- The example's slope as a rational (R206). -/
theorem slopeRat_example (damp : Bool) (o : Word) : slopeRat (exampleCfg damp) (exampleSession o) = 0.99925 := by
  have hlow : (exampleSession o).mLow = ⟨1001, -3⟩ := rfl
  have hhigh : (exampleSession o).mHigh = ⟨4998, -3⟩ := rfl
  have hrefLow : (exampleCfg damp).refLow = ⟨1, 0⟩ := rfl
  have hrefHigh : (exampleCfg damp).refHigh = ⟨5, 0⟩ := rfl
  rw [slopeRat, hlow, hhigh, hrefLow, hrefHigh]
  norm_num [Dec.toRat]

/-- Settles O32: the medians and the slope as rationals, and the outcome for every offset. -/
theorem workedExample : Obligations.WorkedExample := by
  intro o c x
  have hundamped : computeCorrection c x = _ := computeCorrection_example false o
  have hdamped : computeCorrection { c with gainDamp := true } x = _ := computeCorrection_example true o
  have hlow : x.mLow = ⟨1001, -3⟩ := rfl
  have hhigh : x.mHigh = ⟨4998, -3⟩ := rfl
  refine ⟨by rw [hlow]; norm_num [Dec.toRat], by rw [hhigh]; norm_num [Dec.toRat], slopeRat_example false o,
    fun ho => ?_, fun ho => ?_⟩
  · rw [hundamped, hdamped, if_neg (not_lt.mpr ho), if_neg (not_lt.mpr ho)]
    exact ⟨rfl, rfl⟩
  · rw [hundamped, hdamped, if_pos ho, if_pos ho]
    exact ⟨rfl, rfl⟩

end Sys2Proof.Proofs
end

section
/-! ## READ_CAL, WRITE_CAL and the end of a round (spec/44_calibration.md rules R194, R216, R217, R219) -/

namespace Sys2Proof.Proofs

open Sys2Proof.Machine Sys2Proof.Laws

/-! ### READ_CAL (R194) -/

/-- The step of READ_CAL (R194). -/
theorem calStep_readCal {b : BuildParams} {inp : StepInput} {s : State} (hc : s.calState = .readCal) :
    calStep b inp s = readCalStep inp s := by
  simp only [calStep, hc]

/-- An offset out of its bounds fails the run, whatever the gain is (R194). -/
theorem checkReadBack_offset {s : State} (hr : s.calState.running = true)
    (h : s.ses.offset.toInt < s.cfg.offsetMin.toInt ∨ s.cfg.offsetMax.toInt < s.ses.offset.toInt) :
    checkReadBack s = s.failedWith .calDivergence 4 := by
  unfold checkReadBack
  rw [if_pos (by simpa using h), raiseError_running _ _ hr]

/-- With the offset in its bounds, a gain out of its bounds fails the run (R194). -/
theorem checkReadBack_gain {s : State} (hr : s.calState.running = true)
    (ho : s.cfg.offsetMin.toInt ≤ s.ses.offset.toInt ∧ s.ses.offset.toInt ≤ s.cfg.offsetMax.toInt)
    (h : s.ses.gain.toInt < s.cfg.gainMin.toInt ∨ s.cfg.gainMax.toInt < s.ses.gain.toInt) :
    checkReadBack s = s.failedWith .calDivergence 5 := by
  unfold checkReadBack
  rw [if_neg (by simpa using ho), if_pos (by simpa using h), raiseError_running _ _ hr]

/-- With both constants in their bounds the low point is set (R194). -/
theorem checkReadBack_pass {s : State}
    (ho : s.cfg.offsetMin.toInt ≤ s.ses.offset.toInt ∧ s.ses.offset.toInt ≤ s.cfg.offsetMax.toInt)
    (hg : s.cfg.gainMin.toInt ≤ s.ses.gain.toInt ∧ s.ses.gain.toInt ≤ s.cfg.gainMax.toInt) :
    checkReadBack s = gotoState .setLow s := by
  unfold checkReadBack
  rw [if_neg (by simpa using ho), if_neg (by simpa using hg)]

/-- Settles O34: the entry, and the three responses with the check that follows the last. -/
theorem readCalibration : Obligations.ReadCalibration := by
  intro b s inp h hop hc
  have hr := running_of_cal h hop
  refine ⟨fun hs => ?_, fun d hd => ⟨fun hs => ?_, fun hs => ?_, fun hs => ?_⟩⟩
  · rw [advance_cal hop, calStep_readCal hc]
    simp only [readCalStep, hs]
  · exact advance_response h hop (e := (.tIdent, 1)) (by decide) hs hd
  · exact advance_response h hop (e := (.tRoff, 2)) (by decide) hs hd
  · rw [advance_response h hop (e := (.tRgain, 3)) (by decide) hs hd]
    exact ⟨fun ho => advance_congr (checkReadBack_offset hr ho), fun ho hg => advance_congr (checkReadBack_gain hr ho hg),
      fun ho hg => advance_congr (checkReadBack_pass ho hg)⟩

/-! ### WRITE_CAL (R216) -/

/-- The step of WRITE_CAL (R216). -/
theorem calStep_writeCal {b : BuildParams} {inp : StepInput} {s : State} (hc : s.calState = .writeCal) :
    calStep b inp s = writeCalStep inp s := by
  simp only [calStep, hc]

/-- Settles O36: the entry, the two responses, and the gain write's timeout, which is the transaction's own. -/
theorem writeCalibration : Obligations.WriteCalibration := by
  intro b s inp h hop hc
  refine ⟨fun hs => ?_, fun d hd => ⟨fun hs => ?_, fun hs => ?_⟩, fun hs hd ht => ?_⟩
  · rw [advance_cal hop, calStep_writeCal hc]
    simp only [writeCalStep, hs]
  · exact advance_response h hop (e := (.tWoff, 5)) (by decide) hs hd
  · exact advance_response h hop (e := (.tWgain, 6)) (by decide) hs hd
  · exact (transactionAwait b s inp h (.tWgain, 6) (by decide) hop hs).1 hd ht

/-! ### The end of a round (R217, R219) -/

/-- The tolerance test of R219 on the exact values. -/
theorem toleranceMet_iff (s : State) : toleranceMet s = true ↔
    s.cfg.tolEn = true ∧ |s.ppmExact| ≤ (s.cfg.ppmTol.toNat : ℤ) ∧ |s.corrExact| ≤ (s.cfg.offsetTol.toNat : ℤ) := by
  have hle (z : ℤ) (n : ℕ) : z.natAbs ≤ n ↔ |z| ≤ (n : ℤ) := by rw [Int.abs_eq_natAbs]; omega
  simp only [toleranceMet, Bool.and_eq_true, decide_eq_true_eq, hle, and_assoc]

/-- The limits of R219: the rounds, if there is a limit, and the settle ceiling. -/
theorem limitReached_iff (s : State) : limitReached s = true ↔
    (s.cfg.maxRounds ≠ 0 ∧ s.cfg.maxRounds.toNat ≤ s.ses.round.toNat) ∨ s.cfg.settleMaxMs.toNat < s.ses.settleMs.toNat := by
  simp [limitReached]

/-- A round that the operator stopped, or that meets the tolerance, ends the run (R219). -/
theorem terminateOrRepeat_converged {s : State} (h : s.roundStop = true ∨ toleranceMet s = true) :
    terminateOrRepeat s = gotoState .converged s := by
  unfold terminateOrRepeat
  rcases h with h | h <;> simp only [h, if_true, ite_self]

/-- At a limit the run converges without a tolerance to meet, and times out with one (R219). -/
theorem terminateOrRepeat_limit {s : State} (hs : s.roundStop = false) (hm : toleranceMet s = false)
    (hl : limitReached s = true) :
    terminateOrRepeat s = if s.cfg.tolEn then raiseError .calTimeout 0 s else gotoState .converged s := by
  simp only [terminateOrRepeat, hs, hm, hl, Bool.false_eq_true, if_false, if_true]

/-- Otherwise the next round begins at the low point (R219). -/
theorem terminateOrRepeat_repeat {s : State} (hs : s.roundStop = false) (hm : toleranceMet s = false)
    (hl : limitReached s = false) : terminateOrRepeat s = gotoState .setLow (s.setRound false false) := by
  simp only [terminateOrRepeat, hs, hm, hl, Bool.false_eq_true, if_false]

/-- An accepted row ends the round (R15, R217). -/
theorem advance_rowAccepted {b : BuildParams} {inp : StepInput} {s : State} (h : BlockInv s) (hop : s.op = .cal)
    (hc : s.calState = .logRound) (hs : s.substep = .lEmit) (hready : inp.logReady = true) :
    advance b inp s = .next (finishRound s) := by
  rw [advance_cal hop, calStep_logRound hc]
  simp only [logRoundStep, hs, h.logValid.mpr hs, hready, Bool.and_self, if_true]

/-- Settles O38: the row is accepted, and the five outcomes of R219's tests on the state that counts the round. -/
theorem endOfRound : Obligations.EndOfRound := by
  intro b s inp h hop hc hs hready rounds ended met limit
  have hstep : advance b inp s = .next (terminateOrRepeat ended) := advance_rowAccepted h hop hc hs hready
  have hmet : toleranceMet ended = true ↔ met := toleranceMet_iff ended
  have hlimit : limitReached ended = true ↔ limit := limitReached_iff ended
  have unmet (hm : ¬ met) : toleranceMet ended = false := Bool.eq_false_iff.mpr (mt hmet.mp hm)
  rw [hstep]
  refine ⟨fun hst => ?_, fun _ hm => ?_, fun hst hm hl htol => ?_, fun hst hm hl htol => ?_, fun hst hm hl => ?_⟩
  · exact advance_congr (terminateOrRepeat_converged (.inl hst))
  · exact advance_congr (terminateOrRepeat_converged (.inr (hmet.mpr hm)))
  · rw [terminateOrRepeat_limit (s := ended) hst (unmet hm) (hlimit.mpr hl), if_neg (by simpa [ended] using htol)]
  · rw [terminateOrRepeat_limit (s := ended) hst (unmet hm) (hlimit.mpr hl), if_pos (by exact htol)]
    exact advance_congr (raiseError_running _ _ (running_of_cal (s := s) h hop))
  · exact advance_congr (terminateOrRepeat_repeat hst (unmet hm) (Bool.eq_false_iff.mpr (mt hlimit.mp hl)))

end Sys2Proof.Proofs
end

section
/-! ## What a step of a running calibration can do (spec/44_calibration.md rules R192-R220, R226)

One inversion lemma, `advance_runStep`: P1 leaves the run where it is, fails it, or takes a transition. The edges and the counters both follow from it. -/

namespace Sys2Proof.Proofs

open Sys2Proof.Machine Sys2Proof.Laws

/-! ### The three ends of a step -/

/-- `u` comes from `s` by a part of P1 that takes no transition: the calibration's state and the latched request are the same, and no counter has fallen. -/
structure MidStep (s u : State) : Prop where
  calState : u.calState = s.calState
  stopReq : u.stopReq = s.stopReq
  retryCount : s.ses.retryCount.toNat ≤ u.ses.retryCount.toNat
  acqFails : s.ses.acqFails.toNat ≤ u.ses.acqFails.toNat
  round : s.ses.round.toNat ≤ u.ses.round.toNat
  settleMs : s.ses.settleMs.toNat ≤ u.ses.settleMs.toNat

/-- The settle time grew, or is at its ceiling (R204). -/
def Grown (s u : State) : Prop :=
  s.ses.settleMs.toNat < u.ses.settleMs.toNat ∨ u.ses.settleMs = BitVec.allOnes 32

/-- A transition to `c` that goes back to the set-point of a rejected batch (R196, R198). -/
def IsRetry (s : State) (c : CalState) : Prop :=
  (s.calState = .measLow ∧ c = .setLow) ∨ (s.calState = .measHigh ∧ c = .setHigh)

/-- What P1 can make of a running calibration: the run stays in its state, fails, or takes a transition along an edge. The end of an offered row and the return to a set-point come with a longer settle time. -/
inductive RunStep (s : State) : State → Prop
  | stay {t : State} (mid : MidStep s t) (edge : s.calState ∈ s.calState.edges)
      (row : s.logValid = true → t.logValid = true) : RunStep s t
  | fail {u : State} (e : ErrCode) (i : BitVec 6) (mid : MidStep s u) (run : s.calState.running = true)
      (row : s.logValid = true → Grown s u) : RunStep s (u.failedWith e i)
  | goto {u : State} (c : CalState) (mid : MidStep s u) (run : s.calState.running = true) (edge : c ∈ s.calState.edges)
      (grown : IsRetry s c ∨ s.logValid = true → Grown s u) : RunStep s (gotoState c u)

theorem MidStep.refl (s : State) : MidStep s s := ⟨rfl, rfl, le_rfl, le_rfl, le_rfl, le_rfl⟩

theorem MidStep.trans {s u t : State} (h : MidStep s u) (g : MidStep u t) : MidStep s t :=
  ⟨g.calState.trans h.calState, g.stopReq.trans h.stopReq, h.retryCount.trans g.retryCount, h.acqFails.trans g.acqFails,
    h.round.trans g.round, h.settleMs.trans g.settleMs⟩

/-- What `MidStep` compares. -/
def runCounters (s : State) : CalState × StopReq × Word × Word × BitVec 16 × Word :=
  (s.calState, s.stopReq, s.ses.retryCount, s.ses.acqFails, s.ses.round, s.ses.settleMs)

/-- A part of P1 that writes none of them. -/
theorem MidStep.of_counters {s u : State} (h : runCounters u = runCounters s) : MidStep s u := by
  simp only [runCounters, Prod.mk.injEq] at h
  obtain ⟨hc, hq, hretry, hfails, hround, hsettle⟩ := h
  exact ⟨hc, hq, by rw [hretry], by rw [hfails], by rw [hround], by rw [hsettle]⟩

theorem midStep_countTick (tick : Bool) (s : State) : MidStep s (countTick tick s) :=
  .of_counters (by simp [runCounters])

theorem midStep_sampleEnd (b : BuildParams) (s : State) : MidStep s (sampleEnd b s).1 := by
  unfold sampleEnd
  split <;> exact .of_counters rfl

theorem midStep_countAcqFail (s : State) : MidStep s s.countAcqFail :=
  ⟨rfl, rfl, le_rfl, le_satInc _, le_rfl, le_rfl⟩

theorem midStep_countReject (s : State) : MidStep s s.countReject :=
  ⟨rfl, rfl, le_satInc _, le_rfl, le_rfl, le_rfl⟩

theorem midStep_growSettle (s : State) : MidStep s s.growSettle :=
  ⟨rfl, rfl, le_rfl, le_rfl, le_rfl, le_grow _⟩

theorem midStep_endRow (s : State) : MidStep s s.endRow :=
  ⟨rfl, rfl, le_rfl, le_rfl, le_satInc _, le_rfl⟩

/-- After `growSettle` on a state with the step's settle time, the settle time grew or is at its ceiling. -/
theorem grown_growSettle {s u : State} (h : s.ses.settleMs ≠ 0) (hu : u.ses.settleMs = s.ses.settleMs) :
    Grown s u.growSettle := by
  show _ < (grow u.ses.settleMs).toNat ∨ grow u.ses.settleMs = _
  rw [hu]
  rcases lt_grow h with hlt | hmax
  · exact .inl hlt
  · exact .inr (by rw [hmax, grow_allOnes])

/-- Every running state may be held in, but COMPUTE, which lasts one step (R205). -/
theorem self_mem_edges {c : CalState} (hr : c.running = true) (hc : c ≠ .compute) : c ∈ c.edges := by
  cases c with
  | compute => exact absurd rfl hc
  | idle | converged | failed | aborted => cases hr
  | _ => simp [CalState.edges]

/-- Every running state may fail, and may be aborted (R192, R220). -/
theorem failed_aborted_mem_edges {c : CalState} (hr : c.running = true) : .failed ∈ c.edges ∧ .aborted ∈ c.edges := by
  cases c with
  | idle | converged | failed | aborted => cases hr
  | _ => simp [CalState.edges]

/-- `goto` takes the pending abort, or ends in its target. -/
theorem gotoState_cases (c : CalState) (s : State) :
    (s.stopReq = .abort ∧ gotoState c s = takeAbort s) ∨ (s.stopReq ≠ .abort ∧ (gotoState c s).calState = c) := by
  by_cases habort : s.stopReq = .abort
  · exact .inl ⟨habort, gotoState_abort c habort⟩
  · by_cases hc : c = .converged
    · subst hc
      exact .inr ⟨habort, by rw [gotoState_converged habort]⟩
    · exact .inr ⟨habort, by rw [gotoState_enter habort hc]⟩

/-- `raise` in the middle of a run's step fails the run. -/
theorem RunStep.raise {s u : State} (e : ErrCode) (i : BitVec 6) (mid : MidStep s u) (run : s.calState.running = true)
    (row : s.logValid = true → Grown s u) : RunStep s (raiseError e i u) := by
  rw [raiseError_running e i (mid.calState ▸ run)]
  exact .fail e i mid run row

/-! ### The states' steps -/

/-- A run held at an await point where no row is offered: every one but `L_EMIT`. -/
structure RunPoint (s : State) : Prop where
  run : s.calState.running = true
  stays : s.calState ∈ s.calState.edges
  noRow : s.logValid = false

theorem RunPoint.row {s : State} (h : RunPoint s) {q : Prop} : s.logValid = true → q := by
  simp [h.noRow]

theorem RunPoint.hold {s t : State} (h : RunPoint s) (mid : MidStep s t) : RunStep s t := .stay mid h.stays h.row

/-- A transaction's await holds, fails the run, or goes on with its response (R13). -/
theorem awaitTxn_runStep {op : BitVec 6} {inp : StepInput} {f : Word → State → Advance} {s : State} (h : RunPoint s)
    (hf : ∀ d, Advance.All (RunStep s) (f d { s with supPending := false })) :
    Advance.All (RunStep s) (awaitTxn op inp f s) := by
  unfold awaitTxn
  rcases txnStep_cases inp.tick inp.rsp s with ⟨d, e, -⟩ | e | e <;> rw [e]
  · exact hf d
  · exact .raise _ _ (midStep_countTick _ s) h.run h.row
  · exact h.hold (midStep_countTick _ s)

theorem readCalStep_runStep {s : State} (inp : StepInput) (hc : s.calState = .readCal) (h : RunPoint s) :
    Advance.All (RunStep s) (readCalStep inp s) := by
  unfold readCalStep
  split
  · exact h.hold (.refl s)
  · exact awaitTxn_runStep h fun _ => h.hold (.of_counters rfl)
  · exact awaitTxn_runStep h fun _ => h.hold (.of_counters rfl)
  · refine awaitTxn_runStep h fun d => ?_
    have mid : MidStep s (State.setGain { s with supPending := false } d) := .of_counters rfl
    show RunStep s (checkReadBack _)
    unfold checkReadBack
    split
    · exact .raise _ _ mid h.run h.row
    · split
      · exact .raise _ _ mid h.run h.row
      · exact .goto .setLow mid h.run (by simp [hc, CalState.edges]) (by simp [IsRetry, hc, h.noRow])
  · trivial

theorem setStep_runStep {s : State} (p : Point) (inp : StepInput) (hc : s.calState = p.setState) (h : RunPoint s) :
    Advance.All (RunStep s) (setStep p inp s) := by
  have measure {u : State} (mid : MidStep s u) : RunStep s (gotoState p.measState u) :=
    .goto _ mid h.run (by rw [hc]; cases p <;> decide) (by cases p <;> simp [IsRetry, hc, h.noRow, Point.setState])
  unfold setStep
  split
  · exact h.hold (.refl s)
  · refine awaitTxn_runStep h fun _ => ?_
    show RunStep s (startSettle p _)
    unfold startSettle
    split
    · exact measure (.of_counters rfl)
    · exact h.hold (.of_counters rfl)
  · show RunStep s (settleStep p _ s)
    unfold settleStep
    simp only
    split
    · exact measure (midStep_countTick _ s)
    · exact h.hold (midStep_countTick _ s)
  · trivial

/-- The end of a batch fails the run, returns to the set-point with a longer settle time, or goes on (R201-R203). -/
theorem finishBatch_runStep {s u : State} {p : Point} (hc : s.calState = p.measState) (h : RunPoint s)
    (hpos : s.ses.settleMs ≠ 0) (mid : MidStep s u) (hu : u.ses.settleMs = s.ses.settleMs) :
    Advance.All (RunStep s) (finishBatch p u) := by
  unfold finishBatch
  split
  · split
    · show RunStep s (rejectBatch p u)
      unfold rejectBatch
      simp only
      have midR := mid.trans (midStep_countReject u)
      split
      · exact .raise _ _ midR h.run h.row
      · exact .goto _ (midR.trans (midStep_growSettle _)) h.run (by rw [hc]; cases p <;> decide)
          fun _ => grown_growSettle hpos hu
    · rename_i m _ _
      refine .goto _ (u := u.clearBatchRetry.setMeasured p m.median) ?_ h.run (by rw [hc]; cases p <;> decide) ?_
      · exact mid.trans (by cases p <;> exact .of_counters rfl)
      · cases p <;> simp [IsRetry, hc, h.noRow, Point.measState, Point.after]
  · trivial

theorem measureLoop_runStep {s u : State} {p : Point} (hc : s.calState = p.measState) (h : RunPoint s)
    (hpos : s.ses.settleMs ≠ 0) (mid : MidStep s u) (hu : u.ses.settleMs = s.ses.settleMs) :
    Advance.All (RunStep s) (measureLoop p u) := by
  unfold measureLoop
  split
  · exact h.hold (mid.trans (.of_counters rfl))
  · exact finishBatch_runStep hc h hpos mid hu

theorem sampleFailed_runStep {s u : State} {p : Point} (hc : s.calState = p.measState) (h : RunPoint s)
    (hpos : s.ses.settleMs ≠ 0) (mid : MidStep s u) (hu : u.ses.settleMs = s.ses.settleMs) :
    Advance.All (RunStep s) (sampleFailed p u) := by
  have midF := mid.trans (midStep_countAcqFail u)
  unfold sampleFailed
  simp only
  split
  · exact .raise _ _ midF h.run h.row
  · exact measureLoop_runStep hc h hpos midF hu

theorem measureRead_runStep {s : State} {p : Point} (b : BuildParams) (tick : Bool) (hc : s.calState = p.measState)
    (h : RunPoint s) (hpos : s.ses.settleMs ≠ 0) : Advance.All (RunStep s) (measureRead b p tick s) := by
  have midT := midStep_countTick tick s
  unfold measureRead
  simp only
  split
  · exact h.hold midT
  · exact sampleFailed_runStep hc h hpos midT (by simp)
  · have midF : MidStep s (countTick tick s).takeFrame := midT.trans (.of_counters rfl)
    have midE := midF.trans (midStep_sampleEnd b (countTick tick s).takeFrame)
    have hses : (sampleEnd b (countTick tick s).takeFrame).1.ses = s.ses := by
      rw [(sampleEnd_same b _).2.1, State.takeFrame_ses, countTick_ses]
    split <;> rename_i e <;> rw [e] at midE hses
    · exact sampleFailed_runStep hc h hpos midE (by rw [hses])
    · exact measureLoop_runStep hc h hpos (midE.trans (.of_counters rfl)) (by rw [← hses]; rfl)

theorem measStep_runStep {s : State} (b : BuildParams) (p : Point) (inp : StepInput) (hc : s.calState = p.measState)
    (h : RunPoint s) (hpos : s.ses.settleMs ≠ 0) : Advance.All (RunStep s) (measStep b p inp s) := by
  unfold measStep
  split
  · exact measureLoop_runStep hc h hpos (.of_counters rfl) rfl
  · show RunStep s (pulsePhase _ _ s)
    unfold pulsePhase
    split
    · exact h.hold ((midStep_countTick _ s).trans (.of_counters rfl))
    · exact h.hold (midStep_countTick _ s)
  · exact measureRead_runStep b _ hc h hpos
  · trivial

/-- COMPUTE takes its transition in its one step, or fails (R205, R215). -/
theorem computeStep_runStep {s : State} (hc : s.calState = .compute) (hrow : s.logValid = false) :
    Advance.All (RunStep s) (computeStep s) := by
  have run : s.calState.running = true := by rw [hc]; rfl
  have leave {c : CalState} {u : State} (hedge : c ∈ CalState.compute.edges) (mid : MidStep s u) :
      RunStep s (gotoState c u) :=
    .goto c mid run (hc ▸ hedge) (by simp [IsRetry, hc, hrow])
  unfold computeStep
  split
  · split
    · show RunStep s (computeBody s)
      unfold computeBody
      split
      · exact .raise _ _ (.refl s) run (by simp [hrow])
      · unfold stopDecision
        split <;> exact leave (by decide) (.of_counters rfl)
    · trivial
  · trivial

theorem writeCalStep_runStep {s : State} (inp : StepInput) (hc : s.calState = .writeCal) (h : RunPoint s) :
    Advance.All (RunStep s) (writeCalStep inp s) := by
  unfold writeCalStep
  split
  · exact h.hold (.refl s)
  · exact awaitTxn_runStep h fun _ => h.hold (.of_counters rfl)
  · exact awaitTxn_runStep h fun _ => .goto .logRound (.of_counters rfl) h.run
      (by simp [hc, CalState.edges]) (by simp [IsRetry, hc, h.noRow])
  · trivial

/-- The end of a round ends or repeats the run, with a longer settle time (R217, R219). -/
theorem finishRound_runStep {s : State} (hc : s.calState = .logRound) (hpos : s.ses.settleMs ≠ 0) :
    RunStep s (finishRound s) := by
  have run : s.calState.running = true := by rw [hc]; rfl
  have mid : MidStep s s.endRow.growSettle := (midStep_endRow s).trans (midStep_growSettle _)
  have grown : Grown s s.endRow.growSettle := grown_growSettle hpos rfl
  have finish : RunStep s (gotoState .converged s.endRow.growSettle) :=
    .goto _ mid run (by simp [hc, CalState.edges]) fun _ => grown
  unfold finishRound terminateOrRepeat
  split
  · exact finish
  · split
    · exact finish
    · split
      · split
        · exact .raise _ _ mid run fun _ => grown
        · exact finish
      · exact .goto _ (mid.trans (.of_counters rfl)) run (by simp [hc, CalState.edges]) fun _ => grown

theorem logRoundStep_runStep {s : State} (inp : StepInput) (hc : s.calState = .logRound)
    (hlog : s.logValid = true ↔ s.substep = .lEmit) (hpos : s.ses.settleMs ≠ 0) :
    Advance.All (RunStep s) (logRoundStep inp s) := by
  have run : s.calState.running = true := by rw [hc]; rfl
  have stays : s.calState ∈ s.calState.edges := self_mem_edges run (by simp [hc])
  have point (hs : s.substep ≠ .lEmit) : RunPoint s := ⟨run, stays, by simpa [hs] using hlog⟩
  unfold logRoundStep
  split <;> rename_i hs
  · exact (point (by simp [hs])).hold (.refl s)
  · have h := point (by simp [hs])
    exact awaitTxn_runStep h fun _ => h.hold (.of_counters rfl)
  · show RunStep s (if _ then _ else _)
    split
    · exact finishRound_runStep hc hpos
    · exact .stay (.refl s) stays id
  · trivial

/-- The offered row's await point is LOG_ROUND's (R217). -/
theorem logRound_of_lEmit {c : CalState} (h : Await.lEmit ∈ c.awaits) : c = .logRound := by
  cases c with
  | logRound => rfl
  | _ => simp [CalState.awaits] at h

/-- The sequencer's step of a running calibration, wherever it stands: it stays, fails, or takes a transition along an edge. -/
theorem advance_runStep {s : State} (b : BuildParams) (inp : StepInput) (h : BlockInv s) (hop : s.op = .cal) :
    Advance.All (RunStep s) (advance b inp s) := by
  have run := running_of_cal h hop
  have hpos := h.settle hop
  have hrow (hc : s.calState ≠ .logRound) : s.logValid = false := by
    have hne : s.substep ≠ .lEmit := fun hs => hc (logRound_of_lEmit (hs ▸ awaits_of_cal h hop))
    simpa [hne] using h.logValid
  have point (hl : s.calState ≠ .logRound) (hcomp : s.calState ≠ .compute) : RunPoint s :=
    ⟨run, self_mem_edges run hcomp, hrow hl⟩
  rw [advance_cal hop]
  cases hc : s.calState with
  | readCal => exact calStep_readCal hc ▸ readCalStep_runStep inp hc (point (by simp [hc]) (by simp [hc]))
  | setLow => exact calStep_set (p := .low) hc ▸ setStep_runStep .low inp hc (point (by simp [hc]) (by simp [hc]))
  | setHigh => exact calStep_set (p := .high) hc ▸ setStep_runStep .high inp hc (point (by simp [hc]) (by simp [hc]))
  | measLow => exact calStep_meas (p := .low) hc ▸ measStep_runStep b .low inp hc (point (by simp [hc]) (by simp [hc])) hpos
  | measHigh => exact calStep_meas (p := .high) hc ▸ measStep_runStep b .high inp hc (point (by simp [hc]) (by simp [hc])) hpos
  | compute => simpa only [calStep, hc] using computeStep_runStep hc (hrow (by simp [hc]))
  | writeCal => exact calStep_writeCal hc ▸ writeCalStep_runStep inp hc (point (by simp [hc]) (by simp [hc]))
  | logRound => exact calStep_logRound hc ▸ logRoundStep_runStep inp hc h.logValid hpos
  | idle | converged | failed | aborted => simp [hc, CalState.running] at run

/-! ### P1 as a whole -/

/-- The byte capture is no part of the run: it changes no field a run's step depends on. -/
theorem receive_keepsRun {rx : Option Byte} {s u : State} (h : receive rx s = .next u) :
    u.op = s.op ∧ u.calState = s.calState ∧ u.stopReq = s.stopReq ∧ u.logValid = s.logValid ∧ u.ses = s.ses := by
  rcases receive_cases rx s with hr | ⟨b, hr⟩ <;> cases hr.symm.trans h
  · exact ⟨rfl, rfl, rfl, rfl, rfl⟩
  · simp

/-- P1 of a running calibration is a step of the run from the state the byte leaves, and the request it issues, if any. -/
theorem phaseP1_runStep {inp : StepInput} {s t : State} (h : BlockInv s) (hop : s.op = .cal)
    (ht : phaseP1 inp s = .next t) :
    ∃ u w, receive inp.rx s = .next u ∧ RunStep u w ∧ (t = w ∨ ∃ op arg pt, t = emitRequest op arg pt w) := by
  obtain ⟨u, hu, -⟩ := receive_sameHost inp.rx s
  obtain ⟨hopu, -⟩ := receive_keepsRun hu
  have hadv := advance_runStep Config.build inp (blockInv_receive h _ hu) (hopu.trans hop)
  rw [phaseP1_of_receive hu] at ht
  cases ha : advance Config.build inp u with
  | next w =>
    rw [ha] at ht hadv
    cases ht
    exact ⟨u, t, hu, hadv, .inl rfl⟩
  | issue i w =>
    rw [ha] at ht hadv
    obtain ⟨op, arg, pt, hexec⟩ := exec_supplyRequest (isSupplyRequest_of_issue ha)
    cases (hexec w).symm.trans ht
    exact ⟨u, w, hu, hadv, .inr ⟨op, arg, pt, rfl⟩⟩
  | stop f =>
    rw [ha] at ht
    cases ht

/-! ### The edges -/

/-- A move of a run along its edges: once an abort is pending it enters no other running state (R192). -/
def MovesAlongEdge (s t : State) : Prop :=
  t.calState ∈ s.calState.edges ∧ t.stopReq = s.stopReq ∧
    (s.stopReq = .abort → t.calState = s.calState ∨ t.calState = .failed ∨
      (t.calState = .aborted ∧ t.errCode = .calAborted ∧ t.errIndex.toNat = s.calState.code.toNat ∧ t.op = .idle ∧ t.done = true))

/-- Each of the three ends of a step moves along an edge. -/
theorem RunStep.movesAlongEdge {s t : State} (h : RunStep s t) : MovesAlongEdge s t := by
  cases h with
  | stay mid edge row => exact ⟨mid.calState ▸ edge, mid.stopReq, fun _ => .inl mid.calState⟩
  | fail e i mid run row => exact ⟨(failed_aborted_mem_edges run).1, mid.stopReq, fun _ => .inr (.inl rfl)⟩
  | @goto u c mid run edge grown =>
    refine ⟨?_, (gotoState_stopReq c u).trans mid.stopReq, fun habort => ?_⟩
    · rcases gotoState_cases c u with ⟨-, ht⟩ | ⟨-, ht⟩ <;> rw [ht]
      · exact (failed_aborted_mem_edges run).2
      · exact edge
    · rw [gotoState_abort c (mid.stopReq.trans habort)]
      have hindex : (u.calState.code.setWidth 6).toNat = s.calState.code.toNat := by
        rw [mid.calState, BitVec.toNat_setWidth]
        have := s.calState.code.isLt
        omega
      exact .inr (.inr ⟨rfl, rfl, hindex, rfl, rfl⟩)

/-- The fields of a state that `MovesAlongEdge` speaks of. -/
def runFields (s : State) : CalState × StopReq × ErrCode × BitVec 6 × Op × Bool :=
  (s.calState, s.stopReq, s.errCode, s.errIndex, s.op, s.done)

theorem MovesAlongEdge.congr {s t u : State} (h : MovesAlongEdge s t) (hf : runFields u = runFields t) : MovesAlongEdge s u := by
  simp only [runFields, Prod.mk.injEq] at hf
  obtain ⟨hc, hq, he, hi, ho, hd⟩ := hf
  simpa only [MovesAlongEdge, hc, hq, he, hi, ho, hd] using h

/-- A host write of a register other than `CMD` and `STATUS` changes none of them (R72, R182, R183). -/
theorem writeReg_runFields {r : Reg} (v : Word) (s : State) (hr : r ≠ .status) : runFields (writeReg r v s) = runFields s := by
  have whenIdle {t : State} (ht : runFields t = runFields s) : runFields (writeWhenIdle s t) = runFields s := by
    unfold writeWhenIdle
    split
    · rfl
    · exact ht
  cases r with
  | status => exact absurd rfl hr
  | cfg q => exact whenIdle rfl
  | frame i => exact whenIdle rfl
  | _ => rfl

/-- P2 without a command and without a write of `STATUS` changes none of them. -/
theorem phaseP2_runFields {inp : StepInput} {s t : State} (hw : ∀ off v, inp.host = some (.write off v) → 8 ≤ off.toNat)
    (ht : phaseP2 inp s = .next t) : runFields t = runFields s := by
  match hh : inp.host with
  | none => cases (phaseP2_none s hh).symm.trans ht; rfl
  | some (.read off) => cases (phaseP2_read s hh).symm.trans ht; rfl
  | some (.write off v) =>
    have hoff := hw off v hh
    rw [phaseP2_write s hh] at ht
    rcases memWrite_cases off v s with ⟨hcmd, -⟩ | ⟨r, hreg, hwr⟩ | hwr
    · omega
    · cases hwr.symm.trans ht
      refine writeReg_runFields v s ?_
      rintro rfl
      have hword := regMap_offset_unique ((regAt_eq_some_iff off _).mp hreg) status_mem_regMap
      unfold wordOffset at hword
      omega
    · cases hwr.symm.trans ht
      rfl

/-- Settles O57: P1's step of the run moves along an edge, and P2 leaves the run where it is. -/
theorem calibrationEdges : Obligations.CalibrationEdges := by
  intro s t h hop hrst hw hstep
  show MovesAlongEdge s t
  rw [step_of_not_rst hrst] at hstep
  obtain ⟨v, hv, hP2⟩ := andThen_eq_next hstep
  obtain ⟨u, w, hu, hrun, hvw⟩ := phaseP1_runStep (blockInv_begin h) hop hv
  obtain ⟨-, hc, hq, -, -⟩ := receive_keepsRun hu
  have hmove : MovesAlongEdge s w := by
    simpa only [MovesAlongEdge, hc, hq, State.begin_calState, State.begin_stopReq] using hrun.movesAlongEdge
  have hwv : runFields v = runFields w := by rcases hvw with rfl | ⟨op, arg, pt, rfl⟩ <;> rfl
  exact hmove.congr ((phaseP2_runFields hw hP2).trans hwv)

/-! ### The counters -/

/-- The counters of `t` are none below those of `s`, and the settle time grew where R202 and R217 say so. -/
def CountersProgress (s t : State) : Prop :=
  s.ses.retryCount.toNat ≤ t.ses.retryCount.toNat ∧ s.ses.acqFails.toNat ≤ t.ses.acqFails.toNat ∧
    s.ses.round.toNat ≤ t.ses.round.toNat ∧ s.ses.settleMs.toNat ≤ t.ses.settleMs.toNat ∧
    ((s.calState = .measLow ∧ t.calState = .setLow) ∨ (s.calState = .measHigh ∧ t.calState = .setHigh) ∨
        (s.logValid = true ∧ t.logValid = false) → Grown s t)

/-- Each of the three ends of a step keeps or raises the counters. -/
theorem RunStep.countersProgress {s t : State} (h : RunStep s t) : CountersProgress s t := by
  cases h with
  | stay mid edge row =>
    refine ⟨mid.retryCount, mid.acqFails, mid.round, mid.settleMs, fun hcase => ?_⟩
    rcases hcase with ⟨hs, ht⟩ | ⟨hs, ht⟩ | ⟨hs, ht⟩
    · cases (mid.calState.trans hs).symm.trans ht
    · cases (mid.calState.trans hs).symm.trans ht
    · cases (row hs).symm.trans ht
  | fail e i mid run row =>
    refine ⟨mid.retryCount, mid.acqFails, mid.round, mid.settleMs, fun hcase => ?_⟩
    rcases hcase with ⟨-, ht⟩ | ⟨-, ht⟩ | ⟨hs, -⟩
    · cases ht
    · cases ht
    · exact row hs
  | @goto u c mid run edge grown =>
    have hses := gotoState_ses c u
    refine ⟨hses ▸ mid.retryCount, hses ▸ mid.acqFails, hses ▸ mid.round, hses ▸ mid.settleMs, fun hcase => ?_⟩
    have target {d : CalState} (hd : d ≠ .aborted) (ht : (gotoState c u).calState = d) : c = d := by
      rcases gotoState_cases c u with ⟨-, ha⟩ | ⟨-, hc⟩
      · rw [ha] at ht
        exact absurd ht.symm hd
      · exact hc.symm.trans ht
    have hgrown : Grown s u := by
      rcases hcase with ⟨hs, ht⟩ | ⟨hs, ht⟩ | ⟨hs, -⟩
      · exact grown (.inl (.inl ⟨hs, target (by decide) ht⟩))
      · exact grown (.inl (.inr ⟨hs, target (by decide) ht⟩))
      · exact grown (.inr hs)
    simpa only [Grown, hses] using hgrown

/-- Settles O58: P1 is a step of the run, and the request it issues changes no counter. -/
theorem countersNeverDecrease : Obligations.CountersNeverDecrease := by
  intro s t h hop ht
  show CountersProgress s t
  obtain ⟨u, w, hu, hrun, htw⟩ := phaseP1_runStep (blockInv_begin h) hop ht
  obtain ⟨-, hc, -, hl, hs⟩ := receive_keepsRun hu
  have hprog : CountersProgress s w := by
    simpa only [CountersProgress, Grown, hc, hl, hs, State.begin_calState, State.begin_logValid, State.begin_ses]
      using hrun.countersProgress
  rcases htw with rfl | ⟨op, arg, pt, rfl⟩
  · exact hprog
  · exact hprog

end Sys2Proof.Proofs
end

section
/-! ## raise (spec/60_exceptions.md rule R243) -/

namespace Sys2Proof.Proofs

open Sys2Proof.Machine Sys2Proof.Laws

/-- Settles O19: the running states are exactly those with a code from 1 to 8, and `raise` has one equation in a running state and one outside. -/
theorem raiseEffect : Obligations.RaiseEffect := by
  intro s e i
  rw [← running_iff_code s.calState]
  constructor
  · exact raiseError_running e i
  · intro hrun
    exact raiseError_notRunning e i (Bool.eq_false_iff.mpr hrun)

end Sys2Proof.Proofs
end

section
/-! ## The state after reset (spec/70_reset_and_hazards.md rules R265, R267) -/

namespace Sys2Proof.Proofs

open Sys2Proof.Machine Sys2Proof.Laws

/-- Settles O54: the state left by a reset meets the invariant whatever inputs follow, so in particular with the reset state's own. -/
theorem resetInvariant : Obligations.ResetInvariant :=
  blockInv_reset State.reset.inputs

end Sys2Proof.Proofs
end
